-- ==== Sys2Proof/Word.lean ====
section
/-!
DEFINITION. The word types of the block (spec/00_scope.md R8, R9): bytes, register words, and the words the host issues.
-/
namespace Sys2Proof

/-- A byte is 8 bits (R8). -/
abbrev Byte := BitVec 8

/-- A register access is 32 bits (R8, R60). -/
abbrev Word := BitVec 32

/-- A word the host issues: 48 bits, holding either a 43-bit transaction word in its low bits (R80) or a 48-bit command
frame (R92). -/
abbrev HostWord := BitVec 48

end Sys2Proof
end

