-- ==== Sys2Proof/Syntax.lean ====
section
/-!
DEFINITION. The instructions of the block: one constructor for each row of spec/opcode_table.json, and the names under which
a word that is no instruction is rejected.
-/
namespace Sys2Proof

/-- The sixteen register operations of R100 and the eight command frames of R95, with the operands that R83, R94 give them. -/
inductive Instr where
  /-- `SPI.DIV d` (R152). -/
  | spiDiv (d : BitVec 12)
  /-- `SPI.RDDIV` (R153). -/
  | spiRddiv
  /-- `SPI.CS m` (R156); the operand is the raw 2-bit field, the reserved value 1 included (R101). -/
  | spiCs (m : BitVec 2)
  /-- `SPI.RDCS` (R157). -/
  | spiRdcs
  /-- `SPI.TX b` (R158). -/
  | spiTx (b : Byte)
  /-- `SPI.TXST` (R159). -/
  | spiTxst
  /-- `SPI.RX` (R160). -/
  | spiRx
  /-- `C7.LD v` (R113). -/
  | c7Ld (v : BitVec 7)
  /-- `C7.RD` (R114). -/
  | c7Rd
  /-- `C7.FOLD b` (R115). -/
  | c7Fold (b : Byte)
  /-- `C7.FIN` (R116). -/
  | c7Fin
  /-- `C16.LD v` (R133). -/
  | c16Ld (v : BitVec 16)
  /-- `C16.RD` (R134). -/
  | c16Rd
  /-- `C16.FOLD b` (R135). -/
  | c16Fold (b : Byte)
  /-- `C16.CHK e` (R136). -/
  | c16Chk (e : BitVec 16)
  /-- `C16.STAT` (R137). -/
  | c16Stat
  /-- CMD0, GO_IDLE_STATE (R189). -/
  | cmd0
  /-- CMD8, SEND_IF_COND (R190). -/
  | cmd8
  /-- CMD55, APP_CMD (R191). -/
  | cmd55
  /-- ACMD41, SD_SEND_OP_COND with HCS (R191). -/
  | acmd41
  /-- CMD58, READ_OCR (R192). -/
  | cmd58
  /-- CMD16, SET_BLOCKLEN 512 (R193). -/
  | cmd16
  /-- CMD18, READ_MULTIPLE_BLOCK (R195): the start block number and the CRC7 field the frame carries. -/
  | cmd18 (lba : BitVec 32) (crc : BitVec 7)
  /-- CMD12, STOP_TRANSMISSION (R195). -/
  | cmd12
  deriving DecidableEq, Repr

/-- Why a word is no instruction: the cases of R102, and the words that are neither a transaction word nor a command frame
of R95. -/
inductive Reserved where
  /-- R102 (a): unit code 3. -/
  | unitThree
  /-- R102 (b): an offset that is not a multiple of 4. -/
  | misalignedOffset
  /-- R102 (c): an offset that holds no register of the unit. -/
  | noRegister
  /-- R102 (d): a write to `C7_BYTE` or `C16_STATUS`. -/
  | readOnly
  /-- R102 (e): a read of `C7_DATA`, `C16_DATA` or `C16_CHECK`. -/
  | writeOnly
  /-- R102 (f): a write to `RXFIFO`. -/
  | rxfifoWrite
  /-- Bits 47 to 43 are neither all zero (a transaction word, R80) nor start with 01 (a command frame, R92). -/
  | notAWord
  /-- A word with the fixed pattern 01 on top that is none of the eight frames of R95. -/
  | unknownFrame
  deriving DecidableEq, Repr

end Sys2Proof
end

