-- ==== Sys2Proof/Decode.lean ====
section
/-!
DEFINITION. Decoding and encoding of the words the host issues: the transaction words of spec/30_encoding.md R80, R82, R100,
R102 and the command frames of R92, R95.
-/
namespace Sys2Proof

/-- The transaction word of a register access (R80): `we`, `unit`, `off`, `wdata`, most significant first, below five zeros. -/
def regWord (we : Bool) (unit : BitVec 2) (off : BitVec 8) (wdata : Word) : HostWord :=
  0#5 ++ BitVec.ofBool we ++ unit ++ off ++ wdata

/-- A row of R100: the triple that selects the operation, and the operation with its operand taken from the low bits of the
write data (R83). -/
structure RegRow where
  we : Bool
  unit : BitVec 2
  off : BitVec 8
  build : Word → Instr

/-- The sixteen operations, R100. -/
def regRows : List RegRow :=
  [⟨true, 0, 0x00, fun d => .spiDiv (d.setWidth 12)⟩,
   ⟨false, 0, 0x00, fun _ => .spiRddiv⟩,
   ⟨true, 0, 0x18, fun d => .spiCs (d.setWidth 2)⟩,
   ⟨false, 0, 0x18, fun _ => .spiRdcs⟩,
   ⟨true, 0, 0x48, fun d => .spiTx (d.setWidth 8)⟩,
   ⟨false, 0, 0x48, fun _ => .spiTxst⟩,
   ⟨false, 0, 0x4C, fun _ => .spiRx⟩,
   ⟨true, 1, 0x00, fun d => .c7Ld (d.setWidth 7)⟩,
   ⟨false, 1, 0x00, fun _ => .c7Rd⟩,
   ⟨true, 1, 0x04, fun d => .c7Fold (d.setWidth 8)⟩,
   ⟨false, 1, 0x08, fun _ => .c7Fin⟩,
   ⟨true, 2, 0x00, fun d => .c16Ld (d.setWidth 16)⟩,
   ⟨false, 2, 0x00, fun _ => .c16Rd⟩,
   ⟨true, 2, 0x04, fun d => .c16Fold (d.setWidth 8)⟩,
   ⟨true, 2, 0x08, fun d => .c16Chk (d.setWidth 16)⟩,
   ⟨false, 2, 0x0C, fun _ => .c16Stat⟩]

/-- A row is selected by its triple alone, "No bit of `wdata` selects an operation" (R82). -/
def RegRow.selects (r : RegRow) (we : Bool) (unit : BitVec 2) (off : BitVec 8) : Bool :=
  r.we == we && r.unit == unit && r.off == off

/-- Which case of R102 a reserved triple is. -/
def reservedReason (we : Bool) (unit : BitVec 2) (off : BitVec 8) : Reserved :=
  if unit = 3#2 then .unitThree
  else if off.extractLsb' 0 2 ≠ 0#2 then .misalignedOffset
  else if we then
    if unit = 0#2 ∧ off = 0x4C#8 then .rxfifoWrite
    else if (unit = 1#2 ∧ off = 0x08#8) ∨ (unit = 2#2 ∧ off = 0x0C#8) then .readOnly
    else .noRegister
  else if (unit = 1#2 ∧ off = 0x04#8) ∨ (unit = 2#2 ∧ (off = 0x04#8 ∨ off = 0x08#8)) then .writeOnly
  else .noRegister

/-- The lookup of R82. -/
def decodeReg (we : Bool) (unit : BitVec 2) (off : BitVec 8) (wdata : Word) : Except Reserved Instr :=
  match regRows.find? (·.selects we unit off) with
  | some r => .ok (r.build wdata)
  | none => .error (reservedReason we unit off)

/-- A command frame (R92) from its index, argument and CRC7 field. -/
def frameWord (index : BitVec 6) (arg : BitVec 32) (crc : BitVec 7) : HostWord :=
  1#2 ++ index ++ arg ++ crc ++ 1#1

/-- The seven frames of R95 without an open field. -/
def fixedFrames : List (HostWord × Instr) :=
  [(0x400000000095, .cmd0),
   (0x48000001AA87, .cmd8),
   (0x770000000065, .cmd55),
   (0x694000000077, .acmd41),
   (0x7A00000000FD, .cmd58),
   (0x500000020015, .cmd16),
   (0x4C0000000061, .cmd12)]

/-- A word with the fixed pattern 01 on top: one of the seven fixed frames, or CMD18 with any block number and any CRC7 field
and the end bit 1 (the row's mask), else no frame of the table. -/
def decodeFrame (f : HostWord) : Except Reserved Instr :=
  match fixedFrames.find? (fun p => p.1 == f) with
  | some p => .ok p.2
  | none =>
    if f.extractLsb' 40 8 = 0x52#8 ∧ f.extractLsb' 0 1 = 1#1 then
      .ok (.cmd18 (f.extractLsb' 8 32) (f.extractLsb' 1 7))
    else .error .unknownFrame

/-- Decode a word of the host: total, and a word that is no instruction is rejected by name. -/
def decode (w : HostWord) : Except Reserved Instr :=
  if w.extractLsb' 43 5 = 0#5 then
    decodeReg (w.getLsbD 42) (w.extractLsb' 40 2) (w.extractLsb' 32 8) (w.extractLsb' 0 32)
  else if w.extractLsb' 46 2 = 1#2 then decodeFrame w
  else .error .notAWord

/-- The word of an instruction, with every ignored bit of the write data zero (R100, R95). -/
def encode : Instr → HostWord
  | .spiDiv d => regWord true 0 0x00 (d.setWidth 32)
  | .spiRddiv => regWord false 0 0x00 0
  | .spiCs m => regWord true 0 0x18 (m.setWidth 32)
  | .spiRdcs => regWord false 0 0x18 0
  | .spiTx b => regWord true 0 0x48 (b.setWidth 32)
  | .spiTxst => regWord false 0 0x48 0
  | .spiRx => regWord false 0 0x4C 0
  | .c7Ld v => regWord true 1 0x00 (v.setWidth 32)
  | .c7Rd => regWord false 1 0x00 0
  | .c7Fold b => regWord true 1 0x04 (b.setWidth 32)
  | .c7Fin => regWord false 1 0x08 0
  | .c16Ld v => regWord true 2 0x00 (v.setWidth 32)
  | .c16Rd => regWord false 2 0x00 0
  | .c16Fold b => regWord true 2 0x04 (b.setWidth 32)
  | .c16Chk e => regWord true 2 0x08 (e.setWidth 32)
  | .c16Stat => regWord false 2 0x0C 0
  | .cmd0 => frameWord 0 0x00000000 0x4A
  | .cmd8 => frameWord 8 0x000001AA 0x43
  | .cmd55 => frameWord 55 0x00000000 0x32
  | .acmd41 => frameWord 41 0x40000000 0x3B
  | .cmd58 => frameWord 58 0x00000000 0x7E
  | .cmd16 => frameWord 16 0x00000200 0x0A
  | .cmd18 lba crc => frameWord 18 lba crc
  | .cmd12 => frameWord 12 0x00000000 0x30

/-- The bits of an instruction's word that decoding reads: the bits above the write data, and the operand's bits (R82, R83);
of a command frame, all. -/
def usedBits : Instr → HostWord
  | .spiDiv _ => regWord true 3 0xFF 0xFFF ||| 0xF80000000000
  | .spiCs _ => regWord true 3 0xFF 0x3 ||| 0xF80000000000
  | .spiTx _ | .c7Fold _ | .c16Fold _ => regWord true 3 0xFF 0xFF ||| 0xF80000000000
  | .c7Ld _ => regWord true 3 0xFF 0x7F ||| 0xF80000000000
  | .c16Ld _ | .c16Chk _ => regWord true 3 0xFF 0xFFFF ||| 0xF80000000000
  | .spiRddiv | .spiRdcs | .spiTxst | .spiRx | .c7Rd | .c7Fin | .c16Rd | .c16Stat =>
    regWord true 3 0xFF 0 ||| 0xF80000000000
  | .cmd0 | .cmd8 | .cmd55 | .acmd41 | .cmd58 | .cmd16 | .cmd18 _ _ | .cmd12 => 0xFFFFFFFFFFFF

/-- The host word of an opcode-table word of `nbits` bits; `none` when it does not fit. -/
def tableWord (nbits w : Nat) : Option HostWord :=
  if w % 2 ^ nbits < 2 ^ 48 then some (BitVec.ofNat 48 (w % 2 ^ nbits)) else none

/-- What the decoder reads from an instruction of spec/opcode_table.json whose bits are `w`, bit 0 the least significant. -/
def decodeTableWord (nbits w : Nat) : Option Instr :=
  match tableWord nbits w with
  | some h => (decode h).toOption
  | none => none

end Sys2Proof
end

