-- ==== Sys2Proof/Config.lean ====
section
/-!
DEFINITION. What the platform or the implementation fixes (spec/00_scope.md R7) and the free values (R14), each an opaque
constant: nothing can be proved of its value. With them the types these constants speak of.
-/
namespace Sys2Proof

/-- The chip-select mode, the three named values of R27 and R87. -/
inductive CsMode where
  | auto
  | hold
  | off
  deriving DecidableEq, Repr, Inhabited

/-- The chip-select level during an exchange (R34). -/
inductive CsLevel where
  | asserted
  | deasserted
  deriving DecidableEq, Repr, Inhabited

/-- An event of the wire trace (R37). -/
inductive WireEvent where
  /-- `X(cs, t, r)`: an exchange at level `cs`, byte `t` sent by the block, byte `r` received. -/
  | exchange (cs : CsLevel) (t r : Byte)
  /-- `M(m)`: the host wrote chip-select mode `m`. -/
  | mode (m : CsMode)
  deriving DecidableEq, Repr

/-- What a platform does with a `SPI.TX` that meets a full transmit FIFO: the treatments that
spec/93_implementation_defined.md U5 lists for a model that takes it as a parameter, "drop the byte, or overwrite". U5 does not
say which byte is overwritten, so both ends of the queue are admitted. -/
inductive TxFullPolicy where
  | drop
  | overwriteOldest
  | overwriteNewest
  deriving DecidableEq, Repr, Inhabited

/-- The host addresses of offset 0 of the three windows (R7, R51). -/
structure Bases where
  spi : Nat
  c7 : Nat
  c16 : Nat
  deriving DecidableEq, Repr, Inhabited

/-- `SPI_BASE`, `CRC7_BASE`, `CRC16_BASE` in units of 4 bytes. -/
opaque Config.baseWords : Bases

/-- `SPI_BASE`, `CRC7_BASE`, `CRC16_BASE` (R7, OPEN). DEDUCED: each is a multiple of 4, or no register in its window could be
reached at all: its offset is a multiple of 4 (R50) and an access to it is naturally aligned (R60). -/
def Config.bases : Bases :=
  ⟨4 * Config.baseWords.spi, 4 * Config.baseWords.c7, 4 * Config.baseWords.c16⟩

/-- One less than `FIFO_DEPTH`. -/
opaque Config.fifoDepthPred : Nat

/-- `FIFO_DEPTH` (R7, OPEN): at least 1, otherwise unconstrained. -/
def Config.fifoDepth : Nat := Config.fifoDepthPred + 1

/-- `RESET_SCKDIV` (R7, OPEN; R253). -/
opaque Config.resetSckdiv : BitVec 12

/-- `RESET_CSMODE` (R7, OPEN; R253). -/
opaque Config.resetCsmode : CsMode

/-- `F_IN` in Hz (R7, OPEN): read by no step, only by the host's obligation R264. -/
opaque Config.fIn : Nat

/-- `GPT_HEADER_LBA` (R7, OPEN): read by no step, only by the host's copy of the GPT header (R202). -/
opaque Config.gptHeaderLba : BitVec 32

/-- `PAYLOAD_DEST` (R7, OPEN), a host address: read by no step, only by the host's `copy_partition` (R194). -/
opaque Config.payloadDest : Nat

/-- The treatment of spec/93_implementation_defined.md U5, as a parameter. -/
opaque Config.txFullPolicy : TxFullPolicy

/-- spec/93_implementation_defined.md U8, as a parameter: chip select becomes asserted at the write of HOLD (true) or at the
first exchange after it (false). -/
opaque Config.holdAssertsAtWrite : Bool

/-- The free values `any_N()` (R14): the `n`-th draw, of which a use takes the bits it needs. -/
opaque Config.anyWord : Nat → Word

/-- The card oracle `Card(trace, cs, t)` (R166). -/
opaque Config.card : List WireEvent → CsLevel → Byte → Byte

end Sys2Proof
end

