-- ==== Sys2Proof/Machine/State.lean ====
section
/-!
DEFINITION. The state of the block (spec/10_state.md R20) as plain data, what the outside has placed before it, the names
under which a step stops, and the state after reset (spec/70_reset_and_hazards.md R250 to R255).
-/
namespace Sys2Proof.Machine

/-- The width of a bus access (R60). -/
inductive AccessWidth where
  | w8
  | w16
  | w32
  | w64
  deriving DecidableEq, Repr

/-- An access of the host at a host address (R51, R60). -/
structure BusAccess where
  we : Bool
  addr : Nat
  width : AccessWidth
  wdata : Word
  deriving DecidableEq, Repr

/-- What the host issues: a word of the spec's encodings (R80, R92), or a bus access that the address decode of R51 turns
into one. -/
inductive HostItem where
  | word (w : HostWord)
  | bus (a : BusAccess)
  deriving DecidableEq, Repr

/-- One turn of the total order of all steps (R64): the host's next access, or a turn of the shifter (R66). -/
inductive Turn where
  | host (item : HostItem)
  | shifter
  deriving DecidableEq, Repr

/-- The result codes of R221. Codes 1 (PROTOCOL_TIMEOUT) and 2 (RESPONSE_MISMATCH) are one
value here: "a model of the source's host has one failure value for both" (R223). -/
inductive HostCode where
  /-- Code 0, no error. -/
  | ok
  /-- Codes 1 and 2: the check of the command is false; a timeout fails every check (R186). -/
  | checkFailed
  /-- Code 3: a block's CRC16 disagrees with its trailing CRC (R222); the result of a copy, of no command unit. -/
  | crcMismatch
  /-- Code 4: the locator's scan ends without a match (R225); of no command unit. -/
  | partitionNotFound
  /-- Code 5: the response to CMD18 is not 00 (R226). -/
  | cmd18Failure
  deriving DecidableEq, Repr

/-- What a command unit returns to the host: the byte `r` of `sd_cmd` (R183), the trailing response bytes (R99), and the
verdict, `none` where the spec gives no check (CMD55, CMD12), where the host's loop goes on (ACMD41 answered 01, R191), and
where the copy goes on (CMD18 answered 00, R195). -/
structure CmdResult where
  r1 : Byte
  trailing : List Byte
  verdict : Option HostCode
  deriving DecidableEq, Repr

/-- The block, and around it what the outside has placed and what it can read. -/
structure State where
  /-- `C7.REM`: 7 bits or no value (R20 item 1, R23, R33). -/
  c7Rem : Option (BitVec 7)
  /-- `C16.ACC`: 16 bits or no value (R20 item 2, R24, R33). -/
  c16Acc : Option (BitVec 16)
  /-- `C16.MISMATCH`: 1 bit or no value (R20 item 3, R25, R33). -/
  c16Mismatch : Option Bool
  /-- `SPI.SCKDIV.div` (R20 item 4, R26). -/
  div : BitVec 12
  /-- `SPI.CSMODE.mode` (R20 item 5, R27). -/
  mode : CsMode
  /-- `SPI.TXQ`, oldest byte first (R20 item 6, R30). -/
  txq : List Byte
  /-- `SPI.RXQ`, oldest byte first (R20 item 7, R31). -/
  rxq : List Byte
  /-- `WIRE`, ghost (R20 item 9, R37). -/
  wire : List WireEvent
  /-- `rdata`, the value the last read returned to the host (R80); none before the first read. -/
  rdata : Option Word
  /-- The model's own: the turns still to come, as far as the outside has fixed them (R62, R64, R66). -/
  agenda : List Turn
  /-- The model's own: the replies of the card fixed in advance; when it is empty `Config.card` answers (R166). -/
  script : List Byte
  /-- The model's own: how many turns the shifter takes before each of the coming register accesses that a command unit makes
  inside one step; when it is used up the shifter takes every turn it can (R66, R165, R181). -/
  pace : List Nat
  /-- The model's own: how many free values have been drawn (R14). -/
  draws : Nat
  /-- The model's own: what the last command unit returned to the host (R183, R221). -/
  cmd : Option CmdResult
  /-- The model's own, ghost: the bytes written by `SPI.TX` since reset (R167). -/
  sent : List Byte
  /-- The model's own, ghost: the bytes returned by `SPI.RX` since reset (R31, R167). -/
  taken : List Byte
  /-- The model's own, ghost: a `SPI.TX` has met a full transmit FIFO since reset (R167's proviso). -/
  txLost : Bool
  /-- The model's own, ghost: an operation has read a CRC register that holds no value since reset (U1). -/
  u1Met : Bool
  deriving DecidableEq, Repr

/-- The block raises no exception, trap or fault (R16, R220): no step ends in one, so there is no reason to name. Nobody
raises it; safe. -/
inductive Fault where
  deriving DecidableEq, Repr

/-- Why a step has no successor: the points the spec calls Unspecified and treats as `refuse`
(spec/93_implementation_defined.md). Every one is safe: the model stops where the hardware would do something unknown. -/
inductive Refusal where
  /-- An instruction without a meaning yet; raised by no arm of `exec`. Safe. -/
  | notModelled (mnemonic : String)
  /-- U2: a word that is no instruction; raised by the step when decoding rejects the word. Safe. -/
  | reservedWord (why : Reserved)
  /-- U3: a bus access that is not 32 bits wide; raised by the address decode. Safe. -/
  | accessWidth
  /-- U3: a bus access that is not naturally aligned, or at an offset that is not a multiple of 4; raised by the address
  decode. Safe. -/
  | misalignedAccess
  /-- R51: an access outside all three windows, of which the spec says nothing; raised by the address decode. Safe. -/
  | outsideWindows
  /-- U4: `SPI.CS` with the reserved mode value 1. Safe. -/
  | reservedMode
  /-- U6: an exchange while the receive FIFO is full; raised by a turn of the shifter, also inside a
  command unit. Safe. -/
  | receiveOverflow
  /-- U7: a write to `CSMODE` or `SCKDIV` while the transmit FIFO is not empty; raised by `SPI.DIV`, `SPI.CS` and by a
  command unit at one of its two writes of the mode. Safe. -/
  | writeWhileSending
  deriving DecidableEq, Repr

/-- The outcomes of a step of this machine. -/
abbrev Result := Host.Outcome State Fault Refusal

/-- The machine right after reset: no value in the CRC registers (R251, R252), the divider and the mode at their parameters
(R253), both queues empty (R254), an empty wire trace (R255), and nothing placed by the outside. -/
def State.reset : State where
  c7Rem := none
  c16Acc := none
  c16Mismatch := none
  div := Config.resetSckdiv
  mode := Config.resetCsmode
  txq := []
  rxq := []
  wire := []
  rdata := none
  agenda := []
  script := []
  pace := []
  draws := 0
  cmd := none
  sent := []
  taken := []
  txLost := false
  u1Met := false

end Sys2Proof.Machine
end

