-- ==== Sys2Proof/Machine/Bus.lean ====
section
/-!
DEFINITION. The register windows and the address decode (spec/20_memory.md R50, R51, R60): from what the host issues to the
word the block decodes.
-/
namespace Sys2Proof.Machine

/-- Host address `a` lies in the 256-byte window at `base` (R50, R51). -/
def inWindow (base a : Nat) : Bool := base ≤ a && a < base + 0x100

/-- "The three windows do not overlap" (R51). -/
def windowsDisjoint (b : Bases) : Prop :=
  ∀ a, ¬ (inWindow b.spi a ∧ inWindow b.c7 a) ∧ ¬ (inWindow b.spi a ∧ inWindow b.c16 a)
    ∧ ¬ (inWindow b.c7 a ∧ inWindow b.c16 a)

/-- The unit and the offset that host address `a` reaches (R51). The order of the tests matters only where two windows
overlap, which R51 excludes. -/
def windowOf (b : Bases) (a : Nat) : Option (BitVec 2 × BitVec 8) :=
  if inWindow b.spi a then some (0#2, BitVec.ofNat 8 (a - b.spi))
  else if inWindow b.c7 a then some (1#2, BitVec.ofNat 8 (a - b.c7))
  else if inWindow b.c16 a then some (2#2, BitVec.ofNat 8 (a - b.c16))
  else none

/-- The transaction word of a bus access (R51, R80): only a naturally aligned 32-bit access inside a window has one (R60). -/
def busWord (b : Bases) (x : BusAccess) : Except Refusal HostWord :=
  match windowOf b x.addr with
  | none => .error .outsideWindows
  | some (unit, off) =>
    if x.width ≠ .w32 then .error .accessWidth
    else if x.addr % 4 ≠ 0 ∨ off.toNat % 4 ≠ 0 then .error .misalignedAccess
    else .ok (regWord x.we unit off x.wdata)

/-- The word of what the host issues. -/
def itemWord : HostItem → Except Refusal HostWord
  | .word w => .ok w
  | .bus a => busWord Config.bases a

/-- The instruction the host issues, or the refusal of what is none (U2, U3). -/
def fetch (item : HostItem) : Except Refusal Instr :=
  match itemWord item with
  | .error r => .error r
  | .ok w =>
    match decode w with
    | .error why => .error (.reservedWord why)
    | .ok i => .ok i

end Sys2Proof.Machine
end

