-- ==== Sys2Proof/Machine/Crc.lean ====
section
/-!
DEFINITION. The pure functions of the two CRC units: spec/40_crc7.md R110 to R118 and spec/41_crc16.md R130 to R138.
-/
namespace Sys2Proof.Machine

/-- The order in which the bits of a byte are taken: "bit 7 of b first" (R110, R130). -/
def bitsMsbFirst (b : Byte) : List Bool :=
  [b.getLsbD 7, b.getLsbD 6, b.getLsbD 5, b.getLsbD 4, b.getLsbD 3, b.getLsbD 2, b.getLsbD 1, b.getLsbD 0]

/-- One turn of the loop of R110: the feedback bit, the shift, and the terms `x^3 + 1` of the generator. -/
def crc7Bit (r : BitVec 7) (bit : Bool) : BitVec 7 :=
  if r.getLsbD 6 ^^ bit then (r <<< 1) ^^^ 0x09#7 else r <<< 1

/-- `crc7(r, b)` (R110). -/
def crc7 (r : BitVec 7) (b : Byte) : BitVec 7 := (bitsMsbFirst b).foldl crc7Bit r

/-- The CRC7 of a byte sequence, from remainder 0 (R112). -/
def crc7seq (bs : List Byte) : BitVec 7 := bs.foldl crc7 0#7

/-- `crcbyte(rem)`: the remainder shifted left by one with a forced trailing 1 (R91, R117). -/
def crcbyte (rem : BitVec 7) : Byte := rem ++ 1#1

/-- The five bytes that a frame's CRC covers (R92, R118): the command byte, and the argument most significant byte first
(R55). -/
def frameBody (index : BitVec 6) (arg : BitVec 32) : List Byte :=
  [1#2 ++ index, arg.extractLsb' 24 8, arg.extractLsb' 16 8, arg.extractLsb' 8 8, arg.extractLsb' 0 8]

/-- `frame(index, arg)` (R118). -/
def frame (index : BitVec 6) (arg : BitVec 32) : List Byte :=
  frameBody index arg ++ [crcbyte (crc7seq (frameBody index arg))]

/-- One turn of the loop of R130. -/
def crc16Bit (a : BitVec 16) (bit : Bool) : BitVec 16 :=
  if a.getLsbD 15 ^^ bit then (a <<< 1) ^^^ 0x1021#16 else a <<< 1

/-- `crc16(a, b)` (R130). -/
def crc16 (a : BitVec 16) (b : Byte) : BitVec 16 := (bitsMsbFirst b).foldl crc16Bit a

/-- The CRC16 of a byte sequence, from accumulator 0 (R132). -/
def crc16seq (bs : List Byte) : BitVec 16 := bs.foldl crc16 0#16

/-- The expected CRC from the two trailing bytes, high byte first (R56, R98). -/
def expectedCrc (hi lo : Byte) : BitVec 16 := hi ++ lo

/-- `BLOCK_SIZE` (R7, R8): the bytes of one data block. -/
def blockSize : Nat := 512

/-- `verify(data, c_hi, c_lo)` (R138), for `data` of `blockSize` bytes. -/
def verify (data : List Byte) (hi lo : Byte) : Bool := crc16seq data == expectedCrc hi lo

end Sys2Proof.Machine
end

