-- ==== Sys2Proof/Machine/Flags.lean ====
section
/-!
DEFINITION. The derived flags (spec/10_state.md R32), the comparison of `C16.CHK` (R25, R136), and the chip-select level (R34,
R37, R154).
-/
namespace Sys2Proof.Machine

/-- RX empty (R32 (a)). -/
def rxEmpty (s : State) : Bool := s.rxq.isEmpty

/-- TX full (R32 (b)). -/
def txFull (s : State) : Bool := s.txq.length == Config.fifoDepth

/-- The receive FIFO holds `FIFO_DEPTH` bytes (R162, R164). -/
def rxFull (s : State) : Bool := s.rxq.length == Config.fifoDepth

/-- The new `C16.MISMATCH` of a comparison, of all 16 bits (R136). -/
def mismatch (acc e : BitVec 16) : Bool := acc != e

/-- `CsLevel(mode)`: the chip-select level of an exchange (R34). -/
def csLevel : CsMode → CsLevel
  | .off => .deasserted
  | .hold => .asserted
  | .auto => .asserted

/-- The chip-select mode in force after a wire trace that began in mode `m0` (R37). -/
def wireMode (m0 : CsMode) (wire : List WireEvent) : CsMode :=
  wire.foldl (fun m e => match e with | .mode m' => m' | .exchange .. => m) m0

/-- The line between exchanges after one more event: in HOLD it stays asserted once it is, in AUTO and OFF it is deasserted
(R34, R154). Whether the write of HOLD itself asserts it is the parameter of U8. -/
def csLineStep (st : CsMode × CsLevel) : WireEvent → CsMode × CsLevel
  | .mode .hold => (.hold, if st.2 = .asserted ∨ Config.holdAssertsAtWrite then .asserted else .deasserted)
  | .mode m => (m, .deasserted)
  | .exchange .. => (st.1, if st.1 = .hold then .asserted else .deasserted)

/-- The level of the chip-select line between exchanges, after a wire trace that began in mode `m0` with the line at level
`l0` (R36 (b), R37). No operation reads it. -/
def csLine (m0 : CsMode) (l0 : CsLevel) (wire : List WireEvent) : CsLevel := (wire.foldl csLineStep (m0, l0)).2

end Sys2Proof.Machine
end

