-- ==== Sys2Proof/Machine/Operands.lean ====
section
/-!
DEFINITION. The register layouts (spec/30_encoding.md R83 to R91): which bits of the write data an operation takes, and the
32-bit word that a read returns.
-/
namespace Sys2Proof.Machine

/-- The number of a chip-select mode in `CSMODE` (R87). -/
def csModeBits : CsMode → BitVec 2
  | .auto => 0#2
  | .hold => 2#2
  | .off => 3#2

/-- The chip-select mode that a 2-bit value names; 1 is reserved (R87, R101). -/
def csModeOfBits (m : BitVec 2) : Option CsMode :=
  if m = 0#2 then some .auto else if m = 2#2 then some .hold else if m = 3#2 then some .off else none

/-- The operand of a write: the low `n` bits of the write data, the rest ignored (R83). -/
def wdataField (n : Nat) (wdata : Word) : BitVec n := wdata.setWidth n

/-- The word read from a register whose field is `v`: zeros above the field (R83). -/
def readField {n : Nat} (v : BitVec n) : Word := v.setWidth 32

/-- The word read from `TXFIFO`: `full` in bit 31, zeros below (R86). -/
def txfifoWord (full : Bool) : Word := BitVec.ofBool full ++ 0#31

/-- The word read from an empty `RXFIFO`: bit 31 set, the bits below free (R88, R161). -/
def sentinelWord (low : Word) : Word := 1#1 ++ low.setWidth 31

/-- The byte in a word read from `RXFIFO` (R88, R181). -/
def rxByte (w : Word) : Byte := w.extractLsb' 0 8

/-- The flag in bit 31 of a word read from `RXFIFO`: no byte was there (R88). -/
def rxIsSentinel (w : Word) : Bool := w.getLsbD 31

/-- The divisor of the serial clock formula `F_IN / (2·(div + 1))` (R270). Timing only: no step reads it. -/
def serialClockDivisor (div : BitVec 12) : Nat := 2 * (div.toNat + 1)

end Sys2Proof.Machine
end

