-- ==== Sys2Proof/Machine/Ops.lean ====
section
/-!
DEFINITION. The operations over the state that the meanings share. Taking an exception and returning from one are not among
them: the block has neither (spec/60_exceptions.md R220, R229, R230).
-/
namespace Sys2Proof.Machine

/-- Return a value to the host (R80). -/
def State.setRdata (s : State) (w : Word) : State := { s with rdata := some w }

/-- Take the next turn off the agenda. -/
def State.setAgenda (s : State) (rest : List Turn) : State := { s with agenda := rest }

/-- The turns of the shifter still fixed in advance. -/
def State.setPace (s : State) (rest : List Nat) : State := { s with pace := rest }

/-- An operation has read a CRC register that holds no value (U1). -/
def State.meetU1 (s : State) : State := { s with u1Met := true }

/-- One free value has been drawn (R14). -/
def State.bumpDraws (s : State) : State := { s with draws := s.draws + 1 }

/-- `C7.REM <- v`. -/
def State.setRem (s : State) (v : BitVec 7) : State := { s with c7Rem := some v }

/-- `C16.ACC <- v`. -/
def State.setAcc (s : State) (v : BitVec 16) : State := { s with c16Acc := some v }

/-- `C16.MISMATCH <- v`. -/
def State.setMismatch (s : State) (v : Bool) : State := { s with c16Mismatch := some v }

/-- `SPI.SCKDIV.div <- d`. -/
def State.setDiv (s : State) (d : BitVec 12) : State := { s with div := d }

/-- `SPI.CSMODE.mode <- m; WIRE <- WIRE ++ [M(m)]` (R156). -/
def State.setMode (s : State) (m : CsMode) : State := { s with mode := m, wire := s.wire ++ [.mode m] }

/-- Record what a command unit returns to the host. -/
def State.setCmd (s : State) (c : CmdResult) : State := { s with cmd := some c }

/-- The bits a read of `C7.REM` yields. Where the register holds no value the read is the treatment `any value` that U1 admits:
a free value, a fresh one at every read. -/
def remBits (s : State) : BitVec 7 := s.c7Rem.getD ((Config.anyWord s.draws).setWidth 7)

/-- As `remBits`, of `C16.ACC`. -/
def accBits (s : State) : BitVec 16 := s.c16Acc.getD ((Config.anyWord s.draws).setWidth 16)

/-- As `remBits`, of `C16.MISMATCH`. -/
def mismatchBit (s : State) : Bool := s.c16Mismatch.getD ((Config.anyWord s.draws).getLsbD 0)

/-- The state after a read of a register that may hold no value: a draw is used up, and U1 met, exactly where the register
holds none. -/
def State.afterRead {α : Type} (s : State) (reg : Option α) : State := if reg.isSome then s else s.bumpDraws.meetU1

/-- `C7.REM <- crc7(C7.REM, b)` (R115). "until the first operation that writes them (`C7.LD` ...)" (R33): a register that holds
no value holds none after a fold, so that a later read draws afresh (U1). -/
def State.foldRem (s : State) (b : Byte) : State :=
  match s.c7Rem with
  | some r => s.setRem (crc7 r b)
  | none => s.meetU1

/-- As `foldRem`, of `C16.ACC` (R135). -/
def State.foldAcc (s : State) (b : Byte) : State :=
  match s.c16Acc with
  | some a => s.setAcc (crc16 a b)
  | none => s.meetU1

/-- The transmit FIFO after `SPI.TX b` on a full one, under the parameter of U5. -/
def fullTxq (p : TxFullPolicy) (q : List Byte) (b : Byte) : List Byte :=
  match p with
  | .drop => q
  | .overwriteOldest => q.tail ++ [b]
  | .overwriteNewest => q.dropLast ++ [b]

/-- `SPI.TXQ <- SPI.TXQ ++ [b]` (R158), or what U5's parameter says where the queue is full. -/
def State.enqueue (s : State) (b : Byte) : State :=
  if txFull s then
    { s with txq := fullTxq Config.txFullPolicy s.txq b, sent := s.sent ++ [b], txLost := true }
  else { s with txq := s.txq ++ [b], sent := s.sent ++ [b] }

/-- The byte the card drives while byte `t` is sent (R164, R166): the next reply of the script, or the oracle's. -/
def cardByte (s : State) (t : Byte) : Byte := s.script.headD (Config.card s.wire (csLevel s.mode) t)

/-- The body of `SHIFT` (R164) for the byte `t` at the head of `TXQ`, where the receive FIFO has room. -/
def State.exchangeByte (s : State) (t : Byte) : State :=
  { s with
    txq := s.txq.tail
    rxq := s.rxq ++ [cardByte s t]
    wire := s.wire ++ [.exchange (csLevel s.mode) t (cardByte s t)]
    script := s.script.tail }

/-- The effect of `SHIFT` where it is enabled (R163), else none. -/
def State.shifted (s : State) : State :=
  match s.txq with
  | [] => s
  | t :: _ => s.exchangeByte t

/-- A turn of the shifter: `SHIFT` (R164); an exchange that completes on a full receive FIFO is U6 (R162). -/
def shift (s : State) : Result :=
  if !s.txq.isEmpty && rxFull s then .refused .receiveOverflow else .next s.shifted

/-- `SPI.RX` (R160): the word returned is recorded, and the head of `RXQ` removed where there is one. -/
def State.receive (s : State) : State :=
  match s.rxq with
  | [] => s.bumpDraws.setRdata (sentinelWord (Config.anyWord s.draws))
  | r :: rest => { s with rxq := rest, taken := s.taken ++ [r] }.setRdata (readField r)

end Sys2Proof.Machine
end

