-- ==== Sys2Proof/Machine/C16.lean ====
section
/-!
DEFINITION. The operations of the CRC16 unit (spec/41_crc16.md section 2).
-/
namespace Sys2Proof.Machine

/-- `C16.LD v` (R133). -/
def execC16Ld (v : BitVec 16) (s : State) : Result := .next (s.setAcc v)

/-- `C16.RD` (R134). -/
def execC16Rd (s : State) : Result := .next ((s.afterRead s.c16Acc).setRdata (readField (accBits s)))

/-- `C16.FOLD b` (R135). -/
def execC16Fold (b : Byte) (s : State) : Result := .next (s.foldAcc b)

/-- `C16.CHK e` (R136). -/
def execC16Chk (e : BitVec 16) (s : State) : Result :=
  .next ((s.afterRead s.c16Acc).setMismatch (mismatch (accBits s) e))

/-- `C16.STAT` (R137). -/
def execC16Stat (s : State) : Result :=
  .next ((s.afterRead s.c16Mismatch).setRdata (readField (BitVec.ofBool (mismatchBit s))))

end Sys2Proof.Machine
end

