-- ==== Sys2Proof/Machine/C7.lean ====
section
/-!
DEFINITION. The operations of the CRC7 unit (spec/40_crc7.md section 2).
-/
namespace Sys2Proof.Machine

/-- `C7.LD v` (R113). -/
def execC7Ld (v : BitVec 7) (s : State) : Result := .next (s.setRem v)

/-- `C7.RD` (R114). -/
def execC7Rd (s : State) : Result := .next ((s.afterRead s.c7Rem).setRdata (readField (remBits s)))

/-- `C7.FOLD b` (R115). -/
def execC7Fold (b : Byte) (s : State) : Result := .next (s.foldRem b)

/-- `C7.FIN` (R116). -/
def execC7Fin (s : State) : Result := .next ((s.afterRead s.c7Rem).setRdata (readField (crcbyte (remBits s))))

end Sys2Proof.Machine
end

