-- ==== Sys2Proof/Machine/Spi.lean ====
section
/-!
DEFINITION. The host's operations on the SPI unit (spec/42_spi.md sections 2 to 4).
-/
namespace Sys2Proof.Machine

/-- `SPI.DIV d` (R152); while a byte is queued its effect is U7 (R262), refused. -/
def execSpiDiv (d : BitVec 12) (s : State) : Result :=
  if s.txq.isEmpty then .next (s.setDiv d) else .refused .writeWhileSending

/-- `SPI.RDDIV` (R153). -/
def execSpiRddiv (s : State) : Result := .next (s.setRdata (readField s.div))

/-- `SPI.CS m` (R156): the reserved value is tested first (R228). -/
def execSpiCs (m : BitVec 2) (s : State) : Result :=
  match csModeOfBits m with
  | none => .refused .reservedMode
  | some mode => if s.txq.isEmpty then .next (s.setMode mode) else .refused .writeWhileSending

/-- `SPI.RDCS` (R157). -/
def execSpiRdcs (s : State) : Result := .next (s.setRdata (readField (csModeBits s.mode)))

/-- `SPI.TX b` (R158). -/
def execSpiTx (b : Byte) (s : State) : Result := .next (s.enqueue b)

/-- `SPI.TXST` (R159). -/
def execSpiTxst (s : State) : Result := .next (s.setRdata (txfifoWord (txFull s)))

/-- `SPI.RX` (R160). -/
def execSpiRx (s : State) : Result := .next s.receive

end Sys2Proof.Machine
end

