-- ==== Sys2Proof/Machine/Accesses.lean ====
section
/-!
DEFINITION. The host as it makes several register accesses one after the other, with the shifter's turns between them, and the
poll loop of spec/43_host_sequences.md R181.
-/
namespace Sys2Proof.Machine

/-- What several accesses come to: a value the host has, and the state; or the refusal of one of them. -/
inductive Accessed (α : Type) where
  | done (a : α) (s : State)
  | refused (r : Refusal)
  deriving DecidableEq, Repr

/-- One after the other. -/
def accThen {α β : Type} (x : Accessed α) (f : α → State → Accessed β) : Accessed β :=
  match x with
  | .done a s => f a s
  | .refused r => .refused r

/-- One operation. -/
def accOp (o : Result) : Accessed Unit :=
  match o with
  | .next t => .done () t
  | .refused r => .refused r
  | .fault r => nomatch r

/-- `n` turns of the shifter. -/
def shifterTurns : Nat → State → Accessed Unit
  | 0, s => .done () s
  | n + 1, s => accThen (accOp (shift s)) fun _ t => shifterTurns n t

/-- The shifter's turns before the host's next access: as many as `pace` says, and once that is used up every turn that is
enabled. Every interleaving (R66) is that of some `pace`, and the shifter never stops for ever (R165). -/
def pacedTurns (s : State) : Accessed Unit :=
  match s.pace with
  | [] => shifterTurns s.txq.length s
  | n :: rest => shifterTurns n (s.setPace rest)

/-- An access of the host, after the shifter's turns before it. -/
def access (op : State → Result) (s : State) : Accessed Unit := accThen (pacedTurns s) fun _ t => accOp (op t)

/-- The word the last read returned. -/
def State.lastWord (s : State) : Word := s.rdata.getD 0

/-- "repeat `SPI.RX -> w` until `w[31] == 0`" (R181). The reads that `pace` can hold back are counted: after `n` of them it is
used up, the shifter has taken every turn, and the byte is there. -/
def pollRx : Nat → State → Accessed Byte
  | 0, s => accThen (access execSpiRx s) fun _ t => .done (rxByte t.lastWord) t
  | n + 1, s =>
    accThen (access execSpiRx s) fun _ t =>
    if rxIsSentinel t.lastWord then pollRx n t else .done (rxByte t.lastWord) t

/-- `transfer(b) -> r` (R181). -/
def transfer (b : Byte) (s : State) : Accessed Byte :=
  accThen (access (execSpiTx b) s) fun _ t => pollRx t.pace.length t

/-- Several transfers one after the other, the replies discarded (`SEND6`, R104). -/
def transfers : List Byte → State → Accessed Unit
  | [], s => .done () s
  | b :: bs, s => accThen (transfer b s) fun _ t => transfers bs t

/-- The idle byte (R182). -/
def idle : Byte := 0xFF

/-- `n` idle bytes: the bytes read, first byte first (R99). -/
def idleBytes : Nat → State → Accessed (List Byte)
  | 0, s => .done [] s
  | n + 1, s => accThen (transfer idle s) fun b t => accThen (idleBytes n t) fun bs u => .done (b :: bs) u

end Sys2Proof.Machine
end

