-- ==== Sys2Proof/Machine/Frames.lean ====
section
/-!
DEFINITION. The eight SD commands (spec/43_host_sequences.md R183 to R195): one instruction is one whole command unit, the
host's register accesses of R183 and R184 with the shifter's turns between them.
-/
namespace Sys2Proof.Machine

/-- `CMD_POLL_MAX` (R7, R183). -/
def cmdPollMax : Nat := 1000

/-- A byte whose high bit is 0 is a response (R96). -/
def isResponse (r : Byte) : Bool := !r.getLsbD 7

/-- The poll loop of R183 with `n` more polls allowed after the next one. -/
def pollResponse : Nat → State → Accessed Byte
  | 0, s => transfer idle s
  | n + 1, s => accThen (transfer idle s) fun r t => if isResponse r then .done r t else pollResponse n t

/-- The six bytes that `sd_cmd` sends for its operands (R183). -/
def cmdBytes (cmdbyte : Byte) (arg : BitVec 32) (crc : Byte) : List Byte :=
  [cmdbyte, arg.extractLsb' 24 8, arg.extractLsb' 16 8, arg.extractLsb' 8 8, arg.extractLsb' 0 8, crc]

/-- `sd_cmd` (R183): HOLD, the leading idle byte, the six frame bytes, the polls. Its first access takes the turn of the
instruction itself. -/
def sdCmd (bytes : List Byte) (s : State) : Accessed Byte :=
  accThen (accOp (execSpiCs (csModeBits .hold) s)) fun _ t => accThen (transfer idle t) fun _ t =>
  accThen (transfers bytes t) fun _ t => pollResponse (cmdPollMax - 1) t

/-- `cmd_end` (R184): one idle byte, then AUTO. -/
def cmdEnd (s : State) : Accessed Unit :=
  accThen (transfer idle s) fun _ t => access (execSpiCs (csModeBits .auto)) t

/-- A command unit whose chip select is released at its end: `sd_cmd`, `n` trailing bytes, `cmd_end`. -/
def unitRun (bytes : List Byte) (n : Nat) (verdict : Byte → List Byte → Option HostCode) (s : State) : Accessed CmdResult :=
  accThen (sdCmd bytes s) fun r t => accThen (idleBytes n t) fun e t => accThen (cmdEnd t) fun _ t =>
  .done ⟨r, e, verdict r e⟩ t

/-- The outcome of a command unit. From a quiescent unit no access of it is refused, whatever the card answers and whenever the
shifter runs: the first branch says so before the card has answered, and `Laws.commandUnit_eq` that the second agrees. -/
def commandUnit (unit : State → Accessed CmdResult) (s : State) : Result :=
  if s.txq.isEmpty && s.rxq.isEmpty then
    .next (match unit s with | .done c t => t.setCmd c | .refused _ => s)
  else
    match unit s with
    | .done c t => .next (t.setCmd c)
    | .refused r => .refused r

/-- The verdict of a checked command (R187). -/
def checked (pass : Bool) : Option HostCode := some (if pass then .ok else .checkFailed)

/-- CMD8's check of its response and its four trailing bytes (R99, R190). -/
def cmd8Check (r : Byte) : List Byte → Bool
  | [_, _, e2, e3] => r == 0x01 && e2.extractLsb' 0 4 == 0x1#4 && e3 == 0xAA
  | _ => false

/-- CMD58's check of its response and its four trailing bytes (R99, R192). -/
def cmd58Check (r : Byte) : List Byte → Bool
  | o0 :: _ => r == 0x00 && o0.getLsbD 7
  | [] => false

/-- The verdict of ACMD41's response: 00 ends the loop with success, on 01 the host's loop goes on, any other value fails
(R191). -/
def acmd41Verdict (r : Byte) : Option HostCode :=
  if r = 0x01 then none else checked (r == 0x00)

/-- CMD0 (R189). -/
def execCmd0 (s : State) : Result :=
  commandUnit (unitRun (cmdBytes 0x40 0x00000000 0x95) 0 (fun r _ => checked (r == 0x01))) s

/-- CMD8 (R190). -/
def execCmd8 (s : State) : Result :=
  commandUnit (unitRun (cmdBytes 0x48 0x000001AA 0x87) 4 (fun r e => checked (cmd8Check r e))) s

/-- CMD55 (R191): its response is not checked. -/
def execCmd55 (s : State) : Result :=
  commandUnit (unitRun (cmdBytes 0x77 0x00000000 0x65) 0 (fun _ _ => none)) s

/-- ACMD41 (R191). -/
def execAcmd41 (s : State) : Result :=
  commandUnit (unitRun (cmdBytes 0x69 0x40000000 0x77) 0 (fun r _ => acmd41Verdict r)) s

/-- CMD58 (R192). -/
def execCmd58 (s : State) : Result :=
  commandUnit (unitRun (cmdBytes 0x7A 0x00000000 0xFD) 4 (fun r o => checked (cmd58Check r o))) s

/-- CMD16 (R193). -/
def execCmd16 (s : State) : Result :=
  commandUnit (unitRun (cmdBytes 0x50 0x00000200 0x15) 0 (fun r _ => checked (r == 0x00))) s

/-- CMD12 (R195): its response is not checked. -/
def execCmd12 (s : State) : Result :=
  commandUnit (unitRun (cmdBytes 0x4C 0x00000000 0x61) 0 (fun _ _ => none)) s

/-- CMD18's unit (R195): a response other than 00 ends it with CMD18_FAILURE and no CMD12; on 00 chip select stays in HOLD for
the data blocks, which the host reads with idle bytes of its own. -/
def cmd18Run (bytes : List Byte) (s : State) : Accessed CmdResult :=
  accThen (sdCmd bytes s) fun r t =>
  if r = 0x00 then .done ⟨r, [], none⟩ t
  else accThen (cmdEnd t) fun _ t => .done ⟨r, [], some .cmd18Failure⟩ t

/-- CMD18 (R195), with the CRC7 field the frame carries. -/
def execCmd18 (lba : BitVec 32) (crc : BitVec 7) (s : State) : Result :=
  commandUnit (cmd18Run (cmdBytes 0x52 lba (crcbyte crc))) s

end Sys2Proof.Machine
end

