-- ==== Sys2Proof/Machine/Dispatch.lean ====
section
/-!
DEFINITION. One arm for each instruction, each one direct call of its meaning.
-/
namespace Sys2Proof.Machine

def exec (i : Instr) (s : State) : Host.Outcome State Fault Refusal :=
  match i with
  | .spiDiv d => Sys2Proof.Machine.execSpiDiv d s
  | .spiRddiv => Sys2Proof.Machine.execSpiRddiv s
  | .spiCs m => Sys2Proof.Machine.execSpiCs m s
  | .spiRdcs => Sys2Proof.Machine.execSpiRdcs s
  | .spiTx b => Sys2Proof.Machine.execSpiTx b s
  | .spiTxst => Sys2Proof.Machine.execSpiTxst s
  | .spiRx => Sys2Proof.Machine.execSpiRx s
  | .c7Ld v => Sys2Proof.Machine.execC7Ld v s
  | .c7Rd => Sys2Proof.Machine.execC7Rd s
  | .c7Fold b => Sys2Proof.Machine.execC7Fold b s
  | .c7Fin => Sys2Proof.Machine.execC7Fin s
  | .c16Ld v => Sys2Proof.Machine.execC16Ld v s
  | .c16Rd => Sys2Proof.Machine.execC16Rd s
  | .c16Fold b => Sys2Proof.Machine.execC16Fold b s
  | .c16Chk e => Sys2Proof.Machine.execC16Chk e s
  | .c16Stat => Sys2Proof.Machine.execC16Stat s
  | .cmd0 => Sys2Proof.Machine.execCmd0 s
  | .cmd8 => Sys2Proof.Machine.execCmd8 s
  | .cmd55 => Sys2Proof.Machine.execCmd55 s
  | .acmd41 => Sys2Proof.Machine.execAcmd41 s
  | .cmd58 => Sys2Proof.Machine.execCmd58 s
  | .cmd16 => Sys2Proof.Machine.execCmd16 s
  | .cmd18 lba crc => Sys2Proof.Machine.execCmd18 lba crc s
  | .cmd12 => Sys2Proof.Machine.execCmd12 s

end Sys2Proof.Machine
end

