-- ==== Sys2Proof/Machine/Step.lean ====
section
/-!
DEFINITION. One step of the machine: the next turn of the total order of all steps (spec/20_memory.md R64).
-/
namespace Sys2Proof.Machine

/-- A turn of the host runs the instruction it issues; a turn of the shifter is `SHIFT` where enabled (R163, R164). Once the
turns fixed by the outside are used up the shifter has every turn, so that an enabled `SHIFT` is eventually taken (R165), and
with nothing queued nothing happens (R256). -/
def step (s : State) : Host.Outcome State Fault Refusal :=
  match s.agenda with
  | [] => shift s
  | .shifter :: rest => shift (s.setAgenda rest)
  | .host item :: rest =>
    match fetch item with
    | .error r => .refused r
    | .ok i => exec i (s.setAgenda rest)

/-- The word `w` of `nbits` bits placed as the host's next access: the very next step runs it. -/
def State.withFetchWord (s : State) (nbits w : Nat) : State :=
  s.setAgenda (.host (.word (BitVec.ofNat 48 (w % 2 ^ nbits))) :: s.agenda)

end Sys2Proof.Machine
end

