-- ==== Sys2Proof/Machine/Sequences.lean ====
section
/-!
DEFINITION. The host sequences of spec/43_host_sequences.md that are made of several instructions: power-on, bring-up and block
copy. They are behaviour of the host, not of the block (spec/00_scope.md R4 (b), R180), and no step runs them: they say which
instructions such a host issues, with the shifter's turns between them as `pace` says. The two unbounded waits stay unbounded
(R269): a sequence takes the number of rounds that are looked at, and answers `waiting` where it is still waiting then.
-/
namespace Sys2Proof.Machine

/-- What a sequence comes to: a value returned and the state after it; a point the spec calls Unspecified; or still waiting in
one of the two unbounded loops. -/
inductive Ran (α : Type) where
  | done (a : α) (s : State)
  | refused (r : Refusal)
  | waiting
  deriving DecidableEq, Repr

/-- One sequence after another. -/
def seqThen {α β : Type} (x : Ran α) (f : α → State → Ran β) : Ran β :=
  match x with
  | .done a s => f a s
  | .refused r => .refused r
  | .waiting => .waiting

/-- Accesses as a sequence. -/
def seqOf {α : Type} (x : Accessed α) : Ran α :=
  match x with
  | .done a s => .done a s
  | .refused r => .refused r

/-- One instruction of the host. -/
def seqOp (i : Instr) (s : State) : Ran Unit := seqOf (access (exec i) s)

/-- One read of the host, and the word returned. -/
def seqRead (i : Instr) (s : State) : Ran Word := seqThen (seqOp i s) fun _ t => .done t.lastWord t

/-- `idle_byte()` (R182). -/
def seqIdle (s : State) : Ran Byte := seqOf (transfer idle s)

/-- `n` idle bytes, replies discarded. -/
def seqIdles : Nat → State → Ran Unit
  | 0, s => .done () s
  | n + 1, s => seqThen (seqIdle s) fun _ t => seqIdles n t

/-- A command unit and what it returns. -/
def seqCommand (i : Instr) (s : State) : Ran (Option HostCode) :=
  seqThen (seqOp i s) fun _ t => .done (t.cmd.bind (·.verdict)) t

/-- `POWER_ON_IDLE_BYTES` (R7). -/
def powerOnIdleBytes : Nat := 10

/-- Power-on (R188, R265): the divider, chip select off, `powerOnIdleBytes` idle bytes and `more`, chip select to AUTO. That
`d` is slow enough is the host's obligation (R264). -/
def powerOn (d : BitVec 12) (more : Nat) (s : State) : Ran Unit :=
  seqThen (seqOp (.spiDiv d) s) fun _ t => seqThen (seqOp (.spiCs 3) t) fun _ u =>
  seqThen (seqIdles (powerOnIdleBytes + more) u) fun _ v => seqOp (.spiCs 0) v

/-- The loop of CMD55 and ACMD41 (R191), looked at for `rounds` rounds. -/
def acmd41Loop : Nat → State → Ran HostCode
  | 0, _ => .waiting
  | rounds + 1, s =>
    seqThen (seqCommand .cmd55 s) fun _ t => seqThen (seqCommand .acmd41 t) fun c u =>
    match c with
    | none => acmd41Loop rounds u
    | some code => .done code u

/-- A step of the bring-up: "each step fails the whole bring-up if its own check fails" (R187). -/
def bringUpStep (x : Ran HostCode) (f : State → Ran HostCode) : Ran HostCode :=
  seqThen x fun code t => if code = .ok then f t else .done code t

/-- A checked command of the bring-up. -/
def checkedCommand (i : Instr) (s : State) : Ran HostCode :=
  seqThen (seqCommand i s) fun c t => .done (c.getD .checkFailed) t

/-- The card bring-up (R187): power-on, CMD0, CMD8, CMD55 and ACMD41, CMD58, CMD16, in this order. -/
def bringUp (rounds : Nat) (d : BitVec 12) (more : Nat) (s : State) : Ran HostCode :=
  seqThen (powerOn d more s) fun _ t =>
  bringUpStep (checkedCommand .cmd0 t) fun t => bringUpStep (checkedCommand .cmd8 t) fun t =>
  bringUpStep (acmd41Loop rounds t) fun t => bringUpStep (checkedCommand .cmd58 t) fun t => checkedCommand .cmd16 t

/-- `C7.FRAME index, arg -> c` (R104, R118). -/
def seqFrameCrc (index : BitVec 6) (arg : BitVec 32) (s : State) : Ran Byte :=
  let folds := (frameBody index arg).foldl (fun x b => seqThen x fun _ t => seqOp (.c7Fold b) t) (seqOp (.c7Ld 0) s)
  seqThen folds fun _ t => seqThen (seqRead .c7Fin t) fun w u => .done (w.extractLsb' 0 8) u

/-- The start token (R97, R196). -/
def startToken : Byte := 0xFE

/-- The token wait (R196), looked at for `rounds` bytes: every other byte is discarded. -/
def waitToken : Nat → State → Ran Unit
  | 0, _ => .waiting
  | rounds + 1, s => seqThen (seqIdle s) fun b t => if b = startToken then .done () t else waitToken rounds t

/-- `n` data bytes, each folded into the C16 unit as it arrives (R197). -/
def readFolding : Nat → State → Ran (List Byte)
  | 0, s => .done [] s
  | n + 1, s =>
    seqThen (seqIdle s) fun b t => seqThen (seqOp (.c16Fold b) t) fun _ u =>
    seqThen (readFolding n u) fun bs v => .done (b :: bs) v

/-- A data block as the host has read it (R98): the data, and the two trailing bytes. -/
structure Block where
  data : List Byte
  hi : Byte
  lo : Byte
  deriving DecidableEq, Repr

/-- One block of a copy (R195): the token, the data, the trailing CRC, the check and the status read, nonzero on a mismatch. -/
def readBlock (rounds : Nat) (s : State) : Ran (Block × Bool) :=
  seqThen (waitToken rounds s) fun _ s => seqThen (seqOp (.c16Ld 0) s) fun _ s =>
  seqThen (readFolding blockSize s) fun data s => seqThen (seqIdle s) fun hi s => seqThen (seqIdle s) fun lo s =>
  seqThen (seqOp (.c16Chk (expectedCrc hi lo)) s) fun _ s => seqThen (seqRead .c16Stat s) fun w s =>
  .done (⟨data, hi, lo⟩, w != 0) s

/-- The loop over the blocks (R195): it ends at the first mismatch. -/
def readBlocks (rounds : Nat) : Nat → State → Ran (HostCode × List Block)
  | 0, s => .done (.ok, []) s
  | count + 1, s =>
    seqThen (readBlock rounds s) fun x t =>
    if x.2 then .done (.crcMismatch, [x.1]) t
    else seqThen (readBlocks rounds count t) fun y u => .done (y.1, x.1 :: y.2) u

/-- What the host stores of the blocks it has read: consecutive bytes from `dst` (R197, R198). -/
def storesOf (dst : Nat) (blocks : List Block) : List Host.Cell :=
  (blocks.flatMap (·.data)).mapIdx fun j d => (dst + j, d)

/-- `copy(dst, lba, count)` (R195): the code returned and the stores to host memory, in order. -/
def copy (rounds dst : Nat) (lba : BitVec 32) (count : Nat) (s : State) : Ran (HostCode × List Host.Cell) :=
  seqThen (seqFrameCrc 18 lba s) fun c s => seqThen (seqCommand (.cmd18 lba (c.extractLsb' 1 7)) s) fun verdict s =>
  match verdict with
  | some code => .done (code, []) s
  | none =>
    seqThen (readBlocks rounds count s) fun x s => seqThen (seqCommand .cmd12 s) fun _ s =>
    .done (x.1, storesOf dst x.2) s

/-- `copy_partition(lba, count)` (R194): the same algorithm into the fixed payload destination. -/
def copyPartition (rounds : Nat) (lba : BitVec 32) (count : Nat) (s : State) : Ran (HostCode × List Host.Cell) :=
  copy rounds Config.payloadDest lba count s

/-- The copy of the GPT header block to a buffer of the host (R202 step 4). -/
def copyGptHeader (rounds buffer : Nat) (s : State) : Ran (HostCode × List Host.Cell) :=
  copy rounds buffer Config.gptHeaderLba 1 s

/-- The blocks the partition locator scans (R201): `[entries_lba, entries_lba + ceil(num_entries * entry_size / 512))`. -/
def locatorBlocks (entriesLba numEntries entrySize : Nat) : List Nat :=
  List.range' entriesLba ((numEntries * entrySize + blockSize - 1) / blockSize)

/-- The blocks of a partition range, both ends inclusive (R202). -/
def rangeBlockCount (first last : Nat) : Nat := last - first + 1

/-- The exit status (R203): "0 on full success", "1 on any fatal step". -/
def exitStatus (code : HostCode) : Nat := if code = .ok then 0 else 1

/-- The numeric codes of R221. Codes 1 and 2 are one failure value (R223): the number is that of the check. -/
def hostCodeNumber : HostCode → Nat
  | .ok => 0
  | .checkFailed => 2
  | .crcMismatch => 3
  | .partitionNotFound => 4
  | .cmd18Failure => 5

end Sys2Proof.Machine
end

