-- ==== Sys2Proof/Safety.lean ====
section
/-!
DEFINITION. The terms in which claims speak of the machine: a safe step, quiescence, the accounting of bytes, the history of
the chip select, what the spec asks of a host, and the shape of a command unit on the wire.
-/
namespace Sys2Proof.Machine

/-- The next state of an outcome, if it is one. -/
def nextOf (o : Result) : Option State :=
  match o with
  | .next s => some s
  | _ => none

/-- A step is safe when it has a successor: it meets no point the spec calls Unspecified. -/
def SafeStep (s : State) : Prop := ∃ t, step s = .next t

/-- `k` steps lead from `s` to `t`, no one of them refused. -/
def RunsTo (k : Nat) (s t : State) : Prop := Sys2Proof.core.run k s = .next t

/-- The SPI unit is quiescent: both queues empty (R155). Also what a clean end of a run asks (R203). -/
def Quiescent (s : State) : Prop := s.txq = [] ∧ s.rxq = []

/-- The bytes sent in the exchanges of a wire trace. -/
def wireSent (wire : List WireEvent) : List Byte :=
  wire.filterMap fun e => match e with | .exchange _ t _ => some t | .mode _ => none

/-- The bytes received in the exchanges of a wire trace. -/
def wireGot (wire : List WireEvent) : List Byte :=
  wire.filterMap fun e => match e with | .exchange _ _ r => some r | .mode _ => none

/-- Neither queue holds more than `FIFO_DEPTH` bytes (R28). -/
def QueuesBounded (s : State) : Prop := s.txq.length ≤ Config.fifoDepth ∧ s.rxq.length ≤ Config.fifoDepth

/-- One in, one out, in order (R30, R31, R167): the bytes written are the bytes exchanged and then the bytes queued, as long as
no write has met a full queue; the bytes received are the bytes returned and then the bytes queued. -/
def FifoAccounting (s : State) : Prop :=
  (s.txLost = false → s.sent = wireSent s.wire ++ s.txq) ∧ wireGot s.wire = s.taken ++ s.rxq

/-- Every exchange of a wire trace that began in mode `m0` was made at the level of the mode in force (R34, R37). -/
def LevelsFollowModes : CsMode → List WireEvent → Prop
  | _, [] => True
  | _, .mode m :: rest => LevelsFollowModes m rest
  | m, .exchange cs _ _ :: rest => cs = csLevel m ∧ LevelsFollowModes m rest

/-- The wire trace tells the mode and the levels (R34, R37). -/
def WireTellsMode (s : State) : Prop :=
  wireMode Config.resetCsmode s.wire = s.mode ∧ LevelsFollowModes Config.resetCsmode s.wire

/-- The invariant of the SPI unit. -/
def SpiInv (s : State) : Prop := QueuesBounded s ∧ FifoAccounting s ∧ WireTellsMode s

/-- The C7 unit is the same in both states. -/
def SameC7 (s t : State) : Prop := t.c7Rem = s.c7Rem

/-- The C16 unit is the same in both states. -/
def SameC16 (s t : State) : Prop := t.c16Acc = s.c16Acc ∧ t.c16Mismatch = s.c16Mismatch

/-- The SPI unit and its wire are the same in both states. -/
def SameSpi (s t : State) : Prop :=
  t.div = s.div ∧ t.mode = s.mode ∧ t.txq = s.txq ∧ t.rxq = s.rxq ∧ t.wire = s.wire

/-- One byte outstanding: the discipline of R260, which keeps a host clear of U5 and U6. -/
def OneOutstanding (s : State) : Prop := s.txq.length + s.rxq.length ≤ 1

/-- The bytes of an instruction's frame in the order they are sent (R92). -/
def frameBytes (i : Instr) : List Byte :=
  let w := encode i
  [w.extractLsb' 40 8, w.extractLsb' 32 8, w.extractLsb' 24 8, w.extractLsb' 16 8, w.extractLsb' 8 8, w.extractLsb' 0 8]

/-- The trailing response bytes of a command (R99). -/
def trailingBytes : Instr → Nat
  | .cmd8 | .cmd58 => 4
  | .cmd0 | .cmd55 | .acmd41 | .cmd16 | .cmd18 _ _ | .cmd12 => 0
  | .spiDiv _ | .spiRddiv | .spiCs _ | .spiRdcs | .spiTx _ | .spiTxst | .spiRx => 0
  | .c7Ld _ | .c7Rd | .c7Fold _ | .c7Fin | .c16Ld _ | .c16Rd | .c16Fold _ | .c16Chk _ | .c16Stat => 0

/-- The serial clock of divider `div` is at most `hz` (R270), the host's obligation of R264 with `hz` = 300000. -/
def ClockAtMost (hz : Nat) (div : BitVec 12) : Prop := Config.fIn ≤ hz * serialClockDivisor div

/-- How many reads of an empty receive FIFO a transfer from a quiescent unit makes before its reply is there: `pace` gives the
turns before the write and then before each read. -/
def heldReads (pace : List Nat) : Nat := (pace.tail.takeWhile (· == 0)).length

/-- Each byte of a list sent in an exchange of its own, at one level, with the reply beside it. -/
def exchanges (cs : CsLevel) (ts rs : List Byte) : List WireEvent := List.zipWith (WireEvent.exchange cs) ts rs

/-- The polls of `sd_cmd` (R183): 1 to `CMD_POLL_MAX` bytes, all but the last with the high bit set, ended by a response or by
the bound. -/
def PollsOf (polls : List Byte) (r : Byte) : Prop :=
  polls.getLast? = some r ∧ polls.length ≤ cmdPollMax ∧ (∀ p ∈ polls.dropLast, isResponse p = false)
    ∧ (isResponse r = true ∨ polls.length = cmdPollMax)

/-- Each byte received in an exchange is the card's: the next reply of the script, and after the script the oracle's answer to
the whole wire history so far, the level and the byte sent (R166). -/
def RepliesFromCard : List Byte → List WireEvent → List WireEvent → Prop
  | _, _, [] => True
  | script, wire, .mode m :: rest => RepliesFromCard script (wire ++ [.mode m]) rest
  | script, wire, .exchange cs t r :: rest =>
    r = script.headD (Config.card wire cs t) ∧ RepliesFromCard script.tail (wire ++ [.exchange cs t r]) rest

/-- What the events of the wire do not touch: the CRC units, the divider, the turns still to come and the ghost flags. Free
values are drawn only by reads of an empty receive FIFO, and so none where the shifter has every turn. -/
def UnitFrame (s t : State) : Prop :=
  SameC7 s t ∧ SameC16 s t ∧ t.div = s.div ∧ t.agenda = s.agenda ∧ t.txLost = s.txLost ∧ t.u1Met = s.u1Met
    ∧ s.draws ≤ t.draws ∧ t.pace <:+ s.pace ∧ (s.pace = [] → t.draws = s.draws)

/-- From `s` to `t` exactly the events `ev` happened: on the wire, in the mode, in the bytes written and returned, and in the
card's replies; nothing else changed but `rdata` and `cmd`. -/
def WireRun (s t : State) (ev : List WireEvent) : Prop :=
  t.wire = s.wire ++ ev ∧ t.mode = wireMode s.mode ev ∧ LevelsFollowModes s.mode ev
    ∧ t.sent = s.sent ++ wireSent ev ∧ t.taken = s.taken ++ wireGot ev
    ∧ t.script = s.script.drop (wireGot ev).length ∧ RepliesFromCard s.script s.wire ev
    ∧ UnitFrame s t

/-- The wire in `sd_cmd` (R183): HOLD, the idle byte, the six bytes and the polls, chip select asserted. -/
def sdCmdEvents (bytes lead polls : List Byte) : List WireEvent :=
  .mode .hold :: exchanges .asserted (idle :: bytes ++ List.replicate polls.length idle) (lead ++ polls)

/-- The wire in `cmd_end` (R184): one idle byte, then AUTO. -/
def cmdEndEvents (last : Byte) : List WireEvent := [.exchange .asserted idle last, .mode .auto]

/-- A whole command unit with `n` trailing bytes leads from `s` to `t` (R183, R184, R99): the events on the wire, `r` and `trail`
as returned to the host, the unit quiescent in AUTO at the end. -/
def UnitDone (bytes : List Byte) (n : Nat) (s t : State) (r : Byte) (trail : List Byte) : Prop :=
  ∃ lead polls last, lead.length = 7 ∧ PollsOf polls r ∧ trail.length = n
    ∧ WireRun s t (sdCmdEvents bytes lead polls ++ exchanges .asserted (List.replicate n idle) trail ++ cmdEndEvents last)
    ∧ t.rdata = some (readField last) ∧ t.mode = .auto ∧ Quiescent t

/-- The command units of a list happened one after the other, each an instruction with the result beside it: its frame, its
polls, its trailing bytes and its `cmd_end` on the wire, and its result returned. -/
def UnitsDone : List (Instr × CmdResult) → State → State → Prop
  | [], s, t => t = s
  | (i, c) :: rest, s, t =>
    ∃ u, access (exec i) s = .done () u ∧ UnitDone (frameBytes i) (trailingBytes i) s u c.r1 c.trailing ∧ u.cmd = some c
      ∧ UnitsDone rest u t

/-- A sequence from `s` meets no Unspecified point: it is not refused (U2, U3, U4, U6, U7), and where it ends it has met neither
U5 nor U1, has drawn no free value where the shifter has every turn, and leaves the unit quiescent in AUTO. -/
def EndsCleanly {α : Type} (s : State) (x : Ran α) : Prop :=
  match x with
  | .done _ t => Quiescent t ∧ t.mode = .auto ∧ t.txLost = s.txLost ∧ t.u1Met = s.u1Met ∧ (s.pace = [] → t.draws = s.draws)
  | .refused _ => False
  | .waiting => True

/-- The commands of a bring-up whose loop of CMD55 and ACMD41 takes `rounds` rounds (R187). -/
def bringUpOrder (rounds : Nat) : List Instr :=
  [.cmd0, .cmd8] ++ (List.replicate rounds [Instr.cmd55, .acmd41]).flatten ++ [.cmd58, .cmd16]

/-- What the host receives of a data block and of the bytes it discards before the token (R98, R196). -/
def blockBytes (fill : List Byte) (b : Block) : List Byte := fill ++ startToken :: b.data ++ [b.hi, b.lo]

/-- Several instructions one after the other, up to the first that is refused. -/
def execAll : List Instr → State → Result
  | [], s => .next s
  | i :: rest, s =>
    match exec i s with
    | .next t => execAll rest t
    | .fault r => .fault r
    | .refused r => .refused r

/-- The three units (R1). -/
inductive UnitName where
  | spi
  | c7
  | c16
  deriving DecidableEq, Repr

/-- The unit whose registers an instruction reaches; a command unit is made of SPI accesses alone (R54, R183). -/
def unitOf : Instr → UnitName
  | .spiDiv _ | .spiRddiv | .spiCs _ | .spiRdcs | .spiTx _ | .spiTxst | .spiRx => .spi
  | .c7Ld _ | .c7Rd | .c7Fold _ | .c7Fin => .c7
  | .c16Ld _ | .c16Rd | .c16Fold _ | .c16Chk _ | .c16Stat => .c16
  | .cmd0 | .cmd8 | .cmd55 | .acmd41 | .cmd58 | .cmd16 | .cmd18 _ _ | .cmd12 => .spi

/-- The eight command frames (R95). -/
def isFrame : Instr → Bool
  | .cmd0 | .cmd8 | .cmd55 | .acmd41 | .cmd58 | .cmd16 | .cmd18 _ _ | .cmd12 => true
  | .spiDiv _ | .spiRddiv | .spiCs _ | .spiRdcs | .spiTx _ | .spiTxst | .spiRx => false
  | .c7Ld _ | .c7Rd | .c7Fold _ | .c7Fin | .c16Ld _ | .c16Rd | .c16Fold _ | .c16Chk _ | .c16Stat => false

/-- The turns a host sequence is made of: a turn of the shifter, or one of the three accesses of `transfer` and of the
chip-select writes (R181, R183, R184). -/
def IsSequenceTurn (turn : Turn) : Prop :=
  turn = .shifter ∨ turn = .host (.word (encode .spiRx)) ∨ (∃ b, turn = .host (.word (encode (.spiTx b))))
    ∨ (∃ m, turn = .host (.word (encode (.spiCs (csModeBits m)))))

end Sys2Proof.Machine
end

