-- ==== Sys2Proof/WellFormed.lean ====
section
/-!
DEFINITION. Which instructions a program of the spec issues. Decoding accepts more: a word whose operand is the reserved mode,
and a CMD18 frame with any CRC7 field, are words of their rows.
-/
namespace Sys2Proof

/-- Two checks: the mode of `SPI.CS` is one of the three named values (R87, R101); the CRC7 field of a CMD18 frame is the CRC7
of its first five bytes (R118, R195). -/
def Instr.wellFormed : Instr → Bool
  | .spiCs m => (Machine.csModeOfBits m).isSome
  | .cmd18 lba crc => crc == Machine.crc7seq (Machine.frameBody 18#6 lba)
  | .spiDiv _ | .spiRddiv | .spiRdcs | .spiTx _ | .spiTxst | .spiRx => true
  | .c7Ld _ | .c7Rd | .c7Fold _ | .c7Fin => true
  | .c16Ld _ | .c16Rd | .c16Fold _ | .c16Chk _ | .c16Stat => true
  | .cmd0 | .cmd8 | .cmd55 | .acmd41 | .cmd58 | .cmd16 | .cmd12 => true

end Sys2Proof
end

