-- ==== Sys2Proof/Certificates/Slice0/Obligations.lean ====
section
/-!
DEFINITION. The statements for the provers, from the numbered rules of spec/. OBLIGATIONS.json lists them.
-/
open Sys2Proof Sys2Proof.Machine

/-- R80, R82, R83, R92, R95, R100: the encoder and the decoder agree on every instruction. -/
def Obligations.DecodeOfEncodeIsTheInstruction : Prop :=
  ∀ i : Instr, decode (encode i) = .ok i

/-- R82, R83: a word is determined by its instruction, up to the ignored bits. -/
def Obligations.EncodeOfDecodeKeepsTheUsedBits : Prop :=
  ∀ (w : HostWord) (i : Instr), decode w = .ok i → encode i = w &&& usedBits i

/-- R102, the cases (a) to (f). -/
def Obligations.ReservedTransactionWordsAreRefused : Prop :=
  ∀ (s : State) (we : Bool) (unit : BitVec 2) (off : BitVec 8) (wdata : Word) (rest : List Turn),
    s.agenda = .host (.word (regWord we unit off wdata)) :: rest →
    ((∃ why, step s = .refused (.reservedWord why)) ↔
      unit = 3#2 ∨ off.toNat % 4 ≠ 0
      ∨ (unit = 0#2 ∧ off ∉ [0x00#8, 0x18#8, 0x48#8, 0x4C#8])
      ∨ (unit = 1#2 ∧ off ∉ [0x00#8, 0x04#8, 0x08#8])
      ∨ (unit = 2#2 ∧ off ∉ [0x00#8, 0x04#8, 0x08#8, 0x0C#8])
      ∨ (we = true ∧ ((unit = 1#2 ∧ off = 0x08#8) ∨ (unit = 2#2 ∧ off = 0x0C#8)))
      ∨ (we = false ∧ ((unit = 1#2 ∧ off = 0x04#8) ∨ (unit = 2#2 ∧ (off = 0x04#8 ∨ off = 0x08#8))))
      ∨ (we = true ∧ unit = 0#2 ∧ off = 0x4C#8))

/-- The words of V160 to V172, V190 and V193. -/
def Obligations.SpecWordsDecodeToTheirInstructions : Prop :=
  decode 0x44800000040 = .ok (.spiTx 0x40) ∧ decode 0x448FFFFFF40 = .ok (.spiTx 0x40)
    ∧ decode 0x04CDEADBEEF = .ok .spiRx ∧ decode 0x41800000002 = .ok (.spiCs 2) ∧ decode 0x40000000003 = .ok (.spiDiv 3)
    ∧ decode 0x50400000040 = .ok (.c7Fold 0x40) ∧ decode 0x10800000000 = .ok .c7Fin
    ∧ decode 0x60400000001 = .ok (.c16Fold 0x01) ∧ decode 0x60800007FA1 = .ok (.c16Chk 0x7FA1)
    ∧ decode 0x20C00000000 = .ok .c16Stat ∧ decode 0x400000000095 = .ok .cmd0
    ∧ decode 0x5212345678E9 = .ok (.cmd18 0x12345678 0x74)

/-- R62, R64: the host's accesses take effect one at a time, in program order; R51, R80: a bus access is that of its transaction word. -/
def Obligations.StepRunsTheDecodedInstruction : Prop :=
  (∀ (s : State) (w : HostWord) (rest : List Turn), s.agenda = .host (.word w) :: rest →
      (∀ i, decode w = .ok i → step s = exec i { s with agenda := rest })
      ∧ (∀ why, decode w = .error why → step s = .refused (.reservedWord why)))
    ∧ ∀ (s : State) (a : BusAccess) (rest : List Turn), s.agenda = .host (.bus a) :: rest →
      (∀ w, busWord Config.bases a = .ok w →
        (∀ i, decode w = .ok i → step s = exec i { s with agenda := rest })
        ∧ (∀ why, decode w = .error why → step s = .refused (.reservedWord why)))
      ∧ (∀ r, busWord Config.bases a = .error r → step s = .refused r)

/-- R51, the address decode. -/
def Obligations.AddressReachesUnitAtOffset : Prop :=
  ∀ (b : Bases) (a : Nat), windowsDisjoint b →
    (b.spi ≤ a → a < b.spi + 0x100 → windowOf b a = some (0#2, BitVec.ofNat 8 (a - b.spi)))
    ∧ (b.c7 ≤ a → a < b.c7 + 0x100 → windowOf b a = some (1#2, BitVec.ofNat 8 (a - b.c7)))
    ∧ (b.c16 ≤ a → a < b.c16 + 0x100 → windowOf b a = some (2#2, BitVec.ofNat 8 (a - b.c16)))
    ∧ (¬ (b.spi ≤ a ∧ a < b.spi + 0x100) → ¬ (b.c7 ≤ a ∧ a < b.c7 + 0x100) → ¬ (b.c16 ≤ a ∧ a < b.c16 + 0x100) →
        windowOf b a = none)

/-- R60; the two multiples of 4 and the accesses outside the windows are the model's choice (log entries 16 and 17). -/
def Obligations.OnlyAlignedWordAccessesHaveAMeaning : Prop :=
  ∀ (b : Bases) (x : BusAccess) (w : HostWord),
    busWord b x = .ok w ↔ ∃ unit off, windowOf b x.addr = some (unit, off) ∧ x.width = .w32 ∧ x.addr % 4 = 0
      ∧ off.toNat % 4 = 0 ∧ w = regWord x.we unit off x.wdata

/-- The polynomial form that 40_crc7.md section 1 derives from R110. -/
def Obligations.Crc7IsThePolynomialRemainder : Prop :=
  ∀ (r : BitVec 7) (b : Byte),
    let poly : Nat → Nat → Polynomial (ZMod 2) :=
        fun n v => ∑ i ∈ Finset.range n, if v.testBit i then Polynomial.X ^ i else 0
    poly 7 (crc7 r b).toNat = (poly 7 r.toNat * Polynomial.X ^ 8 + poly 8 b.toNat * Polynomial.X ^ 7)
      %ₘ (Polynomial.X ^ 7 + Polynomial.X ^ 3 + 1)

/-- The polynomial form that 41_crc16.md section 1 derives from R130. -/
def Obligations.Crc16IsThePolynomialRemainder : Prop :=
  ∀ (a : BitVec 16) (b : Byte),
    let poly : Nat → Nat → Polynomial (ZMod 2) :=
        fun n v => ∑ i ∈ Finset.range n, if v.testBit i then Polynomial.X ^ i else 0
    poly 16 (crc16 a b).toNat = (poly 16 a.toNat * Polynomial.X ^ 8 + poly 8 b.toNat * Polynomial.X ^ 16)
      %ₘ (Polynomial.X ^ 16 + Polynomial.X ^ 12 + Polynomial.X ^ 5 + 1)

/-- The linearity that 40_crc7.md section 1 derives from R110. -/
def Obligations.Crc7IsLinear : Prop :=
  ∀ (r₁ r₂ : BitVec 7) (b₁ b₂ : Byte), crc7 (r₁ ^^^ r₂) (b₁ ^^^ b₂) = crc7 r₁ b₁ ^^^ crc7 r₂ b₂

/-- The shift-and-xor form that 41_crc16.md section 1 derives from R130. -/
def Obligations.Crc16IsTheShiftAndXorForm : Prop :=
  ∀ (a : BitVec 16) (b : Byte),
    let t₁ : BitVec 16 := (a.extractLsb' 0 8 ++ a.extractLsb' 8 8) ^^^ b.setWidth 16
    let t₂ : BitVec 16 := t₁ ^^^ ((t₁.setWidth 8) >>> 4).setWidth 16
    let t₃ : BitVec 16 := t₂ ^^^ (t₂ <<< 12)
    crc16 a b = t₃ ^^^ ((t₃ &&& 0x00FF#16) <<< 5)

/-- What the CRC7 of a frame detects, 40_crc7.md section 3. -/
def Obligations.FrameCrcDetectsEverySingleBitError : Prop :=
  ∀ (m : BitVec 40) (k : Nat), k < 40 →
    let bytes : BitVec 40 → List Byte := fun v =>
      [v.extractLsb' 32 8, v.extractLsb' 24 8, v.extractLsb' 16 8, v.extractLsb' 8 8, v.extractLsb' 0 8]
    crc7seq (bytes m) ≠ crc7seq (bytes (m ^^^ (1#40 <<< k)))

/-- What the block check guarantees, 41_crc16.md section 3. -/
def Obligations.BlockCheckAcceptsTheRightCrcAndRejectsOneFlippedBit : Prop :=
  ∀ data : List Byte, data.length = blockSize →
    let c := crc16seq data
    verify data (c.extractLsb' 8 8) (c.extractLsb' 0 8) = true
    ∧ (∀ i k, i < blockSize → k < 8 →
        verify (data.modify i (fun d => d ^^^ (1#8 <<< k))) (c.extractLsb' 8 8) (c.extractLsb' 0 8) = false)
    ∧ (∀ k, k < 16 →
        verify data ((c ^^^ (1#16 <<< k)).extractLsb' 8 8) ((c ^^^ (1#16 <<< k)).extractLsb' 0 8) = false)
    ∧ (data ++ [c.extractLsb' 8 8, c.extractLsb' 0 8]).foldl crc16 0#16 = 0#16

/-- R95's eight frames against R118. -/
def Obligations.CommandFramesCarryTheirCrc : Prop :=
  let bytes : HostWord → List Byte := fun v =>
      [v.extractLsb' 40 8, v.extractLsb' 32 8, v.extractLsb' 24 8, v.extractLsb' 16 8, v.extractLsb' 8 8, v.extractLsb' 0 8]
  bytes (encode .cmd0) = frame 0 0 ∧ bytes (encode .cmd8) = frame 8 0x1AA ∧ bytes (encode .cmd55) = frame 55 0
    ∧ bytes (encode .acmd41) = frame 41 0x40000000 ∧ bytes (encode .cmd58) = frame 58 0
    ∧ bytes (encode .cmd16) = frame 16 0x200 ∧ bytes (encode .cmd12) = frame 12 0
    ∧ ∀ lba crc, (Instr.cmd18 lba crc).wellFormed = true → bytes (encode (.cmd18 lba crc)) = frame 18 lba

/-- R113. -/
def Obligations.C7LoadSetsTheRemainder : Prop :=
  (∀ wdata, decode (regWord true 1#2 0x00#8 wdata) = .ok (.c7Ld (wdata.setWidth 7)))
    ∧ ∀ v s, exec (.c7Ld v) s = .next { s with c7Rem := some v }

/-- R114; the third clause is the model's choice (log entry 4). -/
def Obligations.C7ReadReturnsTheRemainder : Prop :=
  (∀ wdata, decode (regWord false 1#2 0x00#8 wdata) = .ok .c7Rd)
    ∧ (∀ s r, s.c7Rem = some r → exec .c7Rd s = .next { s with rdata := some (r.setWidth 32) })
    ∧ (∀ s, s.c7Rem = none → exec .c7Rd s = .next { s with
        rdata := some (((Config.anyWord s.draws).setWidth 7).setWidth 32), draws := s.draws + 1, u1Met := true })

/-- R115; the third clause is the model's choice (log entry 5). -/
def Obligations.C7FoldFoldsOneByte : Prop :=
  (∀ wdata, decode (regWord true 1#2 0x04#8 wdata) = .ok (.c7Fold (wdata.setWidth 8)))
    ∧ (∀ s r b, s.c7Rem = some r → exec (.c7Fold b) s = .next { s with c7Rem := some (crc7 r b) })
    ∧ (∀ s b, s.c7Rem = none → exec (.c7Fold b) s = .next { s with u1Met := true })

/-- R116; the third clause is the model's choice (log entry 4). -/
def Obligations.C7FinReturnsTheCrcByte : Prop :=
  (∀ wdata, decode (regWord false 1#2 0x08#8 wdata) = .ok .c7Fin)
    ∧ (∀ s r, s.c7Rem = some r → exec .c7Fin s = .next { s with rdata := some ((r ++ 1#1 : BitVec 8).setWidth 32) })
    ∧ (∀ s, s.c7Rem = none → exec .c7Fin s = .next { s with
        rdata := some (((Config.anyWord s.draws).setWidth 7 ++ 1#1 : BitVec 8).setWidth 32), draws := s.draws + 1, u1Met := true })

/-- The pseudo-operation C7.FRAME of R104 against R118. -/
def Obligations.C7SequenceYieldsTheFrameByte : Prop :=
  ∀ (s : State) (index : BitVec 6) (arg : BitVec 32),
    execAll ([.c7Ld 0] ++ (frameBody index arg).map .c7Fold ++ [.c7Fin]) s = .next { s with
      c7Rem := some (crc7seq (frameBody index arg))
      rdata := (frame index arg)[5]?.map (BitVec.setWidth 32) }

/-- R133. -/
def Obligations.C16LoadSetsTheAccumulator : Prop :=
  (∀ wdata, decode (regWord true 2#2 0x00#8 wdata) = .ok (.c16Ld (wdata.setWidth 16)))
    ∧ ∀ v s, exec (.c16Ld v) s = .next { s with c16Acc := some v }

/-- R134; the third clause is the model's choice (log entry 4). -/
def Obligations.C16ReadReturnsTheAccumulator : Prop :=
  (∀ wdata, decode (regWord false 2#2 0x00#8 wdata) = .ok .c16Rd)
    ∧ (∀ s a, s.c16Acc = some a → exec .c16Rd s = .next { s with rdata := some (a.setWidth 32) })
    ∧ (∀ s, s.c16Acc = none → exec .c16Rd s = .next { s with
        rdata := some (((Config.anyWord s.draws).setWidth 16).setWidth 32), draws := s.draws + 1, u1Met := true })

/-- R135; the third clause is the model's choice (log entry 5). -/
def Obligations.C16FoldFoldsOneByte : Prop :=
  (∀ wdata, decode (regWord true 2#2 0x04#8 wdata) = .ok (.c16Fold (wdata.setWidth 8)))
    ∧ (∀ s a b, s.c16Acc = some a → exec (.c16Fold b) s = .next { s with c16Acc := some (crc16 a b) })
    ∧ (∀ s b, s.c16Acc = none → exec (.c16Fold b) s = .next { s with u1Met := true })

/-- R136; the third clause is the model's choice (log entries 4 and 5). -/
def Obligations.C16CheckRecordsTheComparison : Prop :=
  (∀ wdata, decode (regWord true 2#2 0x08#8 wdata) = .ok (.c16Chk (wdata.setWidth 16)))
    ∧ (∀ s a e, s.c16Acc = some a →
        exec (.c16Chk e) s = .next { s with c16Mismatch := some (if a = e then false else true) })
    ∧ (∀ s e, s.c16Acc = none → exec (.c16Chk e) s = .next { s with
        c16Mismatch := some (if (Config.anyWord s.draws).setWidth 16 = e then false else true), draws := s.draws + 1, u1Met := true })

/-- R137; the third clause is the model's choice (log entry 4). -/
def Obligations.C16StatusReturnsTheFlag : Prop :=
  (∀ wdata, decode (regWord false 2#2 0x0C#8 wdata) = .ok .c16Stat)
    ∧ (∀ s m, s.c16Mismatch = some m → exec .c16Stat s = .next { s with rdata := some (if m then 1 else 0) })
    ∧ (∀ s, s.c16Mismatch = none → exec .c16Stat s = .next { s with
        rdata := some (if (Config.anyWord s.draws).getLsbD 0 then 1 else 0), draws := s.draws + 1, u1Met := true })

/-- Verifying a block on the C16 unit, R138. -/
def Obligations.C16SequenceVerifiesTheBlock : Prop :=
  ∀ (s : State) (data : List Byte) (hi lo : Byte),
    execAll ([.c16Ld 0] ++ data.map .c16Fold ++ [.c16Chk (hi ++ lo), .c16Stat]) s = .next { s with
      c16Acc := some (crc16seq data)
      c16Mismatch := some (!verify data hi lo)
      rdata := some (if verify data hi lo then 0 else 1) }

/-- R152, R262. -/
def Obligations.SpiDivSetsTheDivider : Prop :=
  (∀ wdata, decode (regWord true 0#2 0x00#8 wdata) = .ok (.spiDiv (wdata.setWidth 12)))
    ∧ (∀ d s, s.txq = [] → exec (.spiDiv d) s = .next { s with div := d })
    ∧ (∀ d s, s.txq ≠ [] → exec (.spiDiv d) s = .refused .writeWhileSending)

/-- R153. -/
def Obligations.SpiRddivReturnsTheDivider : Prop :=
  (∀ wdata, decode (regWord false 0#2 0x00#8 wdata) = .ok .spiRddiv)
    ∧ (∀ s, exec .spiRddiv s = .next { s with rdata := some (s.div.setWidth 32) })
    ∧ State.reset.div = Config.resetSckdiv

/-- R156, with the numbers of R87. -/
def Obligations.SpiCsWritesTheMode : Prop :=
  (∀ wdata, decode (regWord true 0#2 0x18#8 wdata) = .ok (.spiCs (wdata.setWidth 2)))
    ∧ (∀ s, exec (.spiCs 1) s = .refused .reservedMode)
    ∧ (∀ s, ∀ p ∈ [(0#2, CsMode.auto), (2#2, CsMode.hold), (3#2, CsMode.off)],
        (s.txq ≠ [] → exec (.spiCs p.1) s = .refused .writeWhileSending)
        ∧ (s.txq = [] → exec (.spiCs p.1) s = .next { s with mode := p.2, wire := s.wire ++ [.mode p.2] }))

/-- R157, with the numbers of R87. -/
def Obligations.SpiRdcsReturnsTheMode : Prop :=
  (∀ wdata, decode (regWord false 0#2 0x18#8 wdata) = .ok .spiRdcs)
    ∧ ∀ s, exec .spiRdcs s =
        .next { s with rdata := some (match s.mode with | .auto => 0 | .hold => 2 | .off => 3) }

/-- R158. -/
def Obligations.SpiTxQueuesTheByte : Prop :=
  (∀ wdata, decode (regWord true 0#2 0x48#8 wdata) = .ok (.spiTx (wdata.setWidth 8)))
    ∧ ∀ s b, s.txq.length ≠ Config.fifoDepth →
        exec (.spiTx b) s = .next { s with txq := s.txq ++ [b], sent := s.sent ++ [b] }

/-- U5 as a parameter: the model's choice (log entry 9). -/
def Obligations.SpiTxOnAFullQueueDropsOrOverwrites : Prop :=
  ∀ s b, s.txq.length = Config.fifoDepth → ∃ q, q.length = s.txq.length
    ∧ (q = s.txq ∨ q = s.txq.tail ++ [b] ∨ q = s.txq.dropLast ++ [b])
    ∧ exec (.spiTx b) s = .next { s with txq := q, sent := s.sent ++ [b], txLost := true }

/-- R159. -/
def Obligations.SpiTxstReturnsTheFullFlag : Prop :=
  (∀ wdata, decode (regWord false 0#2 0x48#8 wdata) = .ok .spiTxst)
    ∧ ∀ s, exec .spiTxst s =
        .next { s with rdata := some (if s.txq.length = Config.fifoDepth then 0x80000000 else 0x00000000) }

/-- R160. -/
def Obligations.SpiRxTakesTheOldestByteOrReportsEmpty : Prop :=
  (∀ wdata, decode (regWord false 0#2 0x4C#8 wdata) = .ok .spiRx)
    ∧ (∀ s, s.rxq = [] → ∃ low : BitVec 31,
        exec .spiRx s = .next { s with rdata := some (1#1 ++ low : BitVec 32), draws := s.draws + 1 })
    ∧ (∀ s b rest, s.rxq = b :: rest →
        exec .spiRx s = .next { s with rdata := some (b.setWidth 32), rxq := rest, taken := s.taken ++ [b] })

/-- R164, with the levels of R34; that the card's byte comes from the script while it lasts is the model's choice (log entry 3). -/
def Obligations.ShifterTurnIsOneExchange : Prop :=
  ∀ (s : State) (rest : List Turn), s.agenda = .shifter :: rest →
    (s.txq = [] → step s = .next { s with agenda := rest })
    ∧ ∀ t q, s.txq = t :: q →
        (s.rxq.length = Config.fifoDepth → step s = .refused .receiveOverflow)
        ∧ (s.rxq.length ≠ Config.fifoDepth →
            let cs : CsLevel := if s.mode = .off then .deasserted else .asserted
            let r := s.script.headD (Config.card s.wire cs t)
            step s = .next { s with
              agenda := rest, txq := q, rxq := s.rxq ++ [r], wire := s.wire ++ [.exchange cs t r], script := s.script.tail })

/-- R25: only `C16.CHK` writes it. -/
def Obligations.OnlyTheCheckWritesTheMismatchFlag : Prop :=
  (∀ i s t, exec i s = .next t → (∀ e, i ≠ .c16Chk e) → t.c16Mismatch = s.c16Mismatch)
    ∧ ∀ s t, shift s = .next t → t.c16Mismatch = s.c16Mismatch

/-- R40. -/
def Obligations.UnitsShareNoState : Prop :=
  (∀ i s t, exec i s = .next t →
      (unitOf i = .c7 → SameC16 s t ∧ SameSpi s t) ∧ (unitOf i = .c16 → SameC7 s t ∧ SameSpi s t)
      ∧ (unitOf i = .spi → SameC7 s t ∧ SameC16 s t))
    ∧ ∀ s t, shift s = .next t → SameC7 s t ∧ SameC16 s t

/-- R40, seen from two runs. -/
def Obligations.UnitResultsDependOnTheirOwnUnitOnly : Prop :=
  ∀ i s₁ s₂ t₁ t₂, exec i s₁ = .next t₁ → exec i s₂ = .next t₂ → s₁.draws = s₂.draws → s₁.rdata = s₂.rdata →
    (unitOf i = .c7 → SameC7 s₁ s₂ → SameC7 t₁ t₂ ∧ t₁.rdata = t₂.rdata)
    ∧ (unitOf i = .c16 → SameC16 s₁ s₂ → SameC16 t₁ t₂ ∧ t₁.rdata = t₂.rdata)

/-- R33, with R23, R24, R25. -/
def Obligations.HeldValuesStayHeld : Prop :=
  (∀ s t, step s = .next t → (s.c7Rem.isSome → t.c7Rem.isSome) ∧ (s.c16Acc.isSome → t.c16Acc.isSome)
      ∧ (s.c16Mismatch.isSome → t.c16Mismatch.isSome))
    ∧ (∀ i s t, exec i s = .next t →
      (s.c7Rem = none → t.c7Rem.isSome → ∃ v, i = .c7Ld v) ∧ (s.c16Acc = none → t.c16Acc.isSome → ∃ v, i = .c16Ld v)
      ∧ (s.c16Mismatch = none → t.c16Mismatch.isSome → ∃ e, i = .c16Chk e))
    ∧ ∀ s t, shift s = .next t → t.c7Rem = s.c7Rem ∧ t.c16Acc = s.c16Acc ∧ t.c16Mismatch = s.c16Mismatch

/-- R220, R228 and the points U4, U6, U7; that U1 and U5 do not stop is the model's choice (log entries 4, 5, 9), and so is a frame as one step (log entry 12). -/
def Obligations.InstructionsAreRefusedOnlyWhereUnspecified : Prop :=
  ∀ i s, (isFrame i = false → ∀ r, exec i s = .refused r ↔
      (match i with
        | .spiDiv _ => s.txq ≠ [] ∧ r = .writeWhileSending
        | .spiCs m => (m = 1 ∧ r = .reservedMode) ∨ (m ≠ 1 ∧ s.txq ≠ [] ∧ r = .writeWhileSending)
        | _ => False))
    ∧ (isFrame i = true → (s.txq ≠ [] → exec i s = .refused .writeWhileSending) ∧ (Quiescent s → ∃ t, exec i s = .next t)
      ∧ ∀ r, s.txq = [] → exec i s = .refused r → s.rxq ≠ [] ∧ (r = .receiveOverflow ∨ r = .writeWhileSending))
    ∧ ((∃ t, exec i s = .next t) ∨ ∃ r, exec i s = .refused r)

/-- R37: the shifter and `SPI.CS` append; R34, R154: the line between exchanges, with U8 as a parameter (log entry 22). -/
def Obligations.WireHistoryIsNeverRewritten : Prop :=
  ∀ s t, step s = .next t → ∃ ev, t.wire = s.wire ++ ev
    ∧ ∀ (m₀ : CsMode) (l₀ : CsLevel), wireMode m₀ s.wire = s.mode →
      (∀ p cs a b, p ++ [.exchange cs a b] <+: ev → csLine m₀ l₀ (s.wire ++ p ++ [.exchange cs a b]) =
        if wireMode s.mode p = .hold then .asserted else .deasserted)
      ∧ (∀ p m, p ++ [.mode m] <+: ev → csLine m₀ l₀ (s.wire ++ p ++ [.mode m]) =
        if m = .hold ∧ (csLine m₀ l₀ (s.wire ++ p) = .asserted ∨ Config.holdAssertsAtWrite = true) then .asserted
        else .deasserted)
      ∧ (t.mode ≠ .hold → ev ≠ [] → csLine m₀ l₀ t.wire = .deasserted)

/-- R28, R30, R31, R34, R37, R167, for every step of every agent. -/
def Obligations.SpiInvariantKeptByEveryStep : Prop :=
  ∀ s t, SpiInv s → step s = .next t → SpiInv t

/-- R254, R255. -/
def Obligations.SpiInvariantHoldsAtReset : Prop :=
  SpiInv State.reset

/-- R165 as the model has it (log entry 2). -/
def Obligations.ShifterDrainsTheQueue : Prop :=
  ∀ s, s.agenda = [] → s.txq.length + s.rxq.length ≤ Config.fifoDepth →
    ∃ t, RunsTo s.txq.length s t ∧ t.txq = [] ∧ t.rxq.length = s.txq.length + s.rxq.length ∧ s.rxq <+: t.rxq
      ∧ wireSent t.wire = wireSent s.wire ++ s.txq

/-- R260. -/
def Obligations.OneOutstandingByteMeetsNoOverflow : Prop :=
  ∀ s, OneOutstanding s →
    (∃ t, shift s = .next t ∧ OneOutstanding t) ∧ (∃ t, exec .spiRx s = .next t ∧ OneOutstanding t)
    ∧ (Quiescent s → ∀ b, ∃ t, exec (.spiTx b) s = .next t ∧ OneOutstanding t ∧ t.txLost = s.txLost)

/-- R251, R252, R254, R255. -/
def Obligations.ResetLeavesTheSpecsValues : Prop :=
  State.reset.c7Rem = none ∧ State.reset.c16Acc = none ∧ State.reset.c16Mismatch = none
    ∧ State.reset.txq = [] ∧ State.reset.rxq = [] ∧ State.reset.wire = []
    ∧ (∃ t, exec .spiTxst State.reset = .next t ∧ t.rdata = some 0)
    ∧ (∃ t w, exec .spiRx State.reset = .next t ∧ t.rdata = some w ∧ w.getLsbD 31 = true)

/-- R256, R163. -/
def Obligations.ResetIsIdle : Prop :=
  step State.reset = .next State.reset
    ∧ ∀ n, RunsTo n { State.reset with agenda := List.replicate n .shifter } State.reset

/-- R181, R165; the reply is the script's while it lasts (log entry 3), and the shifter's turns are those of `pace` (log entry 12). -/
def Obligations.TransferPollsUntilTheReply : Prop :=
  ∀ (s : State) (b : Byte), Quiescent s →
    let r := s.script.headD (Config.card s.wire (csLevel s.mode) b)
    let k := (s.pace.tail.takeWhile (· == 0)).length
    ∃ t, transfer b s = .done r t ∧ Quiescent t ∧ t.rdata = some (r.setWidth 32)
      ∧ t.wire = s.wire ++ [.exchange (csLevel s.mode) b r] ∧ t.draws = s.draws + k
      ∧ RunsTo (k + 3)
        { s with agenda := [.host (.word (encode (.spiTx b)))] ++ List.replicate k (.host (.word (encode .spiRx)))
            ++ [.shifter, .host (.word (encode .spiRx))] ++ s.agenda }
        { t with pace := s.pace }

/-- R189; one step for the unit, its result in `cmd` (log entries 12 and 13). -/
def Obligations.Cmd0UnitOnTheWire : Prop :=
  ∀ s, Quiescent s → ∃ t r, exec .cmd0 s = .next t
    ∧ UnitDone [0x40, 0x00, 0x00, 0x00, 0x00, 0x95] 0 s t r []
    ∧ t.cmd = some ⟨r, [], some (if r = 0x01 then .ok else .checkFailed)⟩

/-- R190, R99; one step for the unit, its result in `cmd` (log entries 12 and 13). -/
def Obligations.Cmd8UnitOnTheWire : Prop :=
  ∀ s, Quiescent s → ∃ t r e, exec .cmd8 s = .next t
    ∧ UnitDone [0x48, 0x00, 0x00, 0x01, 0xAA, 0x87] 4 s t r e
    ∧ t.cmd = some ⟨r, e, some (if r = 0x01 ∧ (e.getD 2 0).extractLsb' 0 4 = 1 ∧ e.getD 3 0 = 0xAA then .ok else .checkFailed)⟩

/-- R191; one step for the unit, its result in `cmd` (log entries 12 and 13). -/
def Obligations.Cmd55UnitOnTheWire : Prop :=
  ∀ s, Quiescent s → ∃ t r, exec .cmd55 s = .next t
    ∧ UnitDone [0x77, 0x00, 0x00, 0x00, 0x00, 0x65] 0 s t r []
    ∧ t.cmd = some ⟨r, [], none⟩

/-- R191; one step for the unit, its result in `cmd` (log entries 12 and 13). -/
def Obligations.Acmd41UnitOnTheWire : Prop :=
  ∀ s, Quiescent s → ∃ t r, exec .acmd41 s = .next t
    ∧ UnitDone [0x69, 0x40, 0x00, 0x00, 0x00, 0x77] 0 s t r []
    ∧ t.cmd = some ⟨r, [], if r = 0x01 then none else some (if r = 0x00 then .ok else .checkFailed)⟩

/-- R192, R99; one step for the unit, its result in `cmd` (log entries 12 and 13). -/
def Obligations.Cmd58UnitOnTheWire : Prop :=
  ∀ s, Quiescent s → ∃ t r e, exec .cmd58 s = .next t
    ∧ UnitDone [0x7A, 0x00, 0x00, 0x00, 0x00, 0xFD] 4 s t r e
    ∧ t.cmd = some ⟨r, e, some (if r = 0x00 ∧ (e.getD 0 0).getLsbD 7 = true then .ok else .checkFailed)⟩

/-- R193; one step for the unit, its result in `cmd` (log entries 12 and 13). -/
def Obligations.Cmd16UnitOnTheWire : Prop :=
  ∀ s, Quiescent s → ∃ t r, exec .cmd16 s = .next t
    ∧ UnitDone [0x50, 0x00, 0x00, 0x02, 0x00, 0x15] 0 s t r []
    ∧ t.cmd = some ⟨r, [], some (if r = 0x00 then .ok else .checkFailed)⟩

/-- R195; one step for the unit, its result in `cmd` (log entries 12 and 13). -/
def Obligations.Cmd12UnitOnTheWire : Prop :=
  ∀ s, Quiescent s → ∃ t r, exec .cmd12 s = .next t
    ∧ UnitDone [0x4C, 0x00, 0x00, 0x00, 0x00, 0x61] 0 s t r []
    ∧ t.cmd = some ⟨r, [], none⟩

/-- R195, R226; one step for the unit, its result in `cmd` (log entries 12 and 13). -/
def Obligations.Cmd18UnitOnTheWire : Prop :=
  ∀ (s : State) (lba : BitVec 32) (crc : BitVec 7), Quiescent s →
    ∃ t r lead polls, exec (.cmd18 lba crc) s = .next t ∧ lead.length = 7 ∧ PollsOf polls r ∧ Quiescent t
      ∧ let bytes : List Byte :=
          [0x52, lba.extractLsb' 24 8, lba.extractLsb' 16 8, lba.extractLsb' 8 8, lba.extractLsb' 0 8, crc ++ 1#1]
        (r = 0x00 → WireRun s t (sdCmdEvents bytes lead polls) ∧ t.mode = .hold ∧ t.rdata = some 0
            ∧ t.cmd = some ⟨r, [], none⟩)
        ∧ (r ≠ 0x00 → ∃ last, WireRun s t (sdCmdEvents bytes lead polls ++ cmdEndEvents last) ∧ t.mode = .auto
            ∧ t.rdata = some (readField last) ∧ t.cmd = some ⟨r, [], some .cmd18Failure⟩)

/-- R186, R223; the result is recorded in `cmd` (log entry 13). -/
def Obligations.TimeoutFailsEveryCheck : Prop :=
  ∀ i s t c, Quiescent s → exec i s = .next t → t.cmd = some c → isResponse c.r1 = false →
    (i ∈ [.cmd0, .cmd8, .acmd41, .cmd58, .cmd16] → c.verdict = some .checkFailed)
    ∧ (∀ lba crc, i = .cmd18 lba crc → c.verdict = some .cmd18Failure)

/-- R183, R184 in terms of R100's operations; a frame as one step is the model's choice (log entry 12). -/
def Obligations.EveryCommandUnitIsASequenceOfRegisterAccesses : Prop :=
  ∀ i s t, isFrame i = true → exec i s = .next t →
    ∃ turns : List Turn, (∀ turn ∈ turns, IsSequenceTurn turn)
      ∧ RunsTo turns.length { s with agenda := turns ++ s.agenda } { t with cmd := s.cmd, pace := s.pace }

/-- R260, R262, R263 of the host sequences, and R187; the sequences are functions beside the machine (log entry 24), the shifter's turns those of `pace` (log entry 12). -/
def Obligations.HostSequencesMeetNoUnspecifiedPointAndBringUpEndsAtFirstFailure : Prop :=
  ∀ s : State, Quiescent s →
    ((∀ d more, EndsCleanly s (powerOn d more s)) ∧ (∀ rounds d more, EndsCleanly s (bringUp rounds d more s))
      ∧ ∀ rounds dst lba count, EndsCleanly s (copy rounds dst lba count s))
    ∧ ∀ rounds d more code t, bringUp rounds d more s = .done code t →
      ∃ u n units, powerOn d more s = .done () u ∧ n ≤ rounds ∧ UnitsDone units u t
        ∧ units.map (·.1) <+: bringUpOrder n
        ∧ (∀ p ∈ units.dropLast, p.2.verdict = some .ok ∨ p.1 = .cmd55 ∨ (p.1 = .acmd41 ∧ p.2.r1 = 0x01))
        ∧ (∀ (k : Nat) p q, units[k]? = some p → units[k + 1]? = some q → p.1 = .acmd41 → (q.1 = .cmd55 ↔ p.2.r1 = 0x01))
        ∧ ∃ p, units.getLast? = some p ∧ ((code = .ok ∧ 0 < n ∧ units.map (·.1) = bringUpOrder n ∧ p.2.verdict = some .ok)
          ∨ (code = .checkFailed ∧ p.2.verdict = some .checkFailed))

/-- R188, R265; power-on is a function beside the machine (log entry 24), and that it ends rests on R165 (log entry 12). -/
def Obligations.PowerOnSendsIdleBytesWithChipSelectOff : Prop :=
  ∀ (s : State) (d : BitVec 12) (more : Nat), Quiescent s → ∃ t rs, powerOn d more s = .done () t
    ∧ rs.length = 10 + more ∧ t.div = d ∧ t.mode = .auto ∧ SameC7 s t ∧ SameC16 s t
    ∧ t.wire = s.wire ++ .mode .off :: exchanges .deasserted (List.replicate (10 + more) 0xFF) rs ++ [.mode .auto]

/-- R195 to R198, R222, R228; a copy is a function beside the machine (log entry 24), the shifter's turns those of `pace` (log entry 12). -/
def Obligations.CopyStoresWholeBlocksAndStopsAtTheFirstMismatch : Prop :=
  ∀ (s t : State) (rounds dst count : Nat) (lba : BitVec 32) (code : HostCode) (stores : List Host.Cell), Quiescent s →
    copy rounds dst lba count s = .done (code, stores) t →
    ∃ lead polls r last, lead.length = 7 ∧ PollsOf polls r
      ∧ ((r ≠ 0x00 ∧ code = .cmd18Failure ∧ stores = []
          ∧ t.wire = s.wire ++ sdCmdEvents (frame 18 lba) lead polls ++ cmdEndEvents last)
        ∨ (r = 0x00 ∧ ∃ (read : List (List Byte × Block)) (lead' polls' : List Byte) (r' : Byte),
          lead'.length = 7 ∧ PollsOf polls' r'
          ∧ (let got := read.flatMap (fun x => blockBytes x.1 x.2)
            t.wire = s.wire ++ sdCmdEvents (frame 18 lba) lead polls
              ++ exchanges .asserted (List.replicate got.length idle) got
              ++ sdCmdEvents [0x4C, 0x00, 0x00, 0x00, 0x00, 0x61] lead' polls' ++ cmdEndEvents last)
          ∧ (∀ x ∈ read, startToken ∉ x.1 ∧ x.2.data.length = 512)
          ∧ stores = (read.flatMap (·.2.data)).mapIdx (fun j d => (dst + j, d))
          ∧ read.length ≤ count
          ∧ (∀ x ∈ read.dropLast, verify x.2.data x.2.hi x.2.lo = true)
          ∧ ((code = .ok ∧ read.length = count ∧ ∀ x ∈ read, verify x.2.data x.2.hi x.2.lo = true)
            ∨ (code = .crcMismatch ∧ t.c16Mismatch = some true
              ∧ ∃ x, read.getLast? = some x ∧ verify x.2.data x.2.hi x.2.lo = false
                ∧ t.c16Acc = some (crc16seq x.2.data)))))
end

