-- ==== Sys2Proof/Laws/Decode.lean ====
section
/-!
SUPPORT. The fields of a transaction word and of a command frame, and what the decoder does with them.
-/
namespace Sys2Proof.Laws

variable (we : Bool) (unit : BitVec 2) (off : BitVec 8) (wdata : Word)

theorem regWord_prefix : (regWord we unit off wdata).extractLsb' 43 5 = 0#5 := by
  unfold regWord
  ext i hi
  simp only [BitVec.getElem_extractLsb', BitVec.getLsbD_append]
  simp [show ¬ 43 + i < 32 by omega, show ¬ 43 + i - 32 < 8 by omega, show ¬ 43 + i - 32 - 8 < 2 by omega,
    show ¬ 43 + i - 32 - 8 - 2 < 1 by omega]

theorem regWord_we : (regWord we unit off wdata).getLsbD 42 = we := by
  unfold regWord
  simp only [BitVec.getLsbD_append]
  simp

theorem regWord_unit : (regWord we unit off wdata).extractLsb' 40 2 = unit := by
  unfold regWord
  ext i hi
  simp only [BitVec.getElem_extractLsb', BitVec.getLsbD_append]
  simp [show ¬ 40 + i < 32 by omega, show ¬ 40 + i - 32 < 8 by omega, show 40 + i - 32 - 8 = i by omega, hi]

theorem regWord_off : (regWord we unit off wdata).extractLsb' 32 8 = off := by
  unfold regWord
  ext i hi
  simp only [BitVec.getElem_extractLsb', BitVec.getLsbD_append]
  simp [show ¬ 32 + i < 32 by omega, show 32 + i - 32 = i by omega, hi]

theorem regWord_wdata : (regWord we unit off wdata).extractLsb' 0 32 = wdata := by
  unfold regWord
  ext i hi
  simp only [BitVec.getElem_extractLsb', BitVec.getLsbD_append]
  simp [hi]

/-- A transaction word decodes by its triple (R82). -/
theorem decode_regWord : decode (regWord we unit off wdata) = decodeReg we unit off wdata := by
  simp only [decode, regWord_prefix, regWord_we, regWord_unit, regWord_off, regWord_wdata, if_true]

/-- The bits of a transaction word above the write data are its triple's, whatever the write data. -/
theorem regWord_masked : regWord we unit off wdata &&& 0xFFFF00000000 = regWord we unit off 0 := by
  have mask : ∀ i < 48, (0xFFFF00000000 : HostWord).getLsbD i = decide (32 ≤ i) := by decide
  unfold regWord
  apply BitVec.eq_of_getLsbD_eq
  intro i hi
  erw [BitVec.getLsbD_and, mask i hi]
  simp only [BitVec.getLsbD_append]
  by_cases h : i < 32
  · simp [h, show ¬ 32 ≤ i by omega]
  · simp [h, show 32 ≤ i by omega]

/-- The bits of a CMD18 frame that its row's mask fixes (R95). -/
theorem frameWord_masked (index : BitVec 6) (arg : BitVec 32) (crc : BitVec 7) :
    frameWord index arg crc &&& 0xFF0000000001 = frameWord index 0 0 := by
  have mask : ∀ i < 48, (0xFF0000000001 : HostWord).getLsbD i = decide (i < 1 ∨ 40 ≤ i) := by decide
  unfold frameWord
  apply BitVec.eq_of_getLsbD_eq
  intro i hi
  erw [BitVec.getLsbD_and, mask i hi]
  simp only [BitVec.getLsbD_append]
  by_cases h : i < 1
  · simp [h]
  by_cases h' : 40 ≤ i
  · simp [h, h', show ¬ i - 1 < 7 by omega, show ¬ i - 1 - 7 < 32 by omega]
  · simp only [h, h', or_self, decide_false, Bool.and_false, if_false]
    by_cases h7 : i - 1 < 7
    · simp [h7]
    · simp [h7, show i - 1 - 7 < 32 by omega]

end Sys2Proof.Laws
end

