-- ==== Sys2Proof/Laws/State.lean ====
section
/-!
SUPPORT. One lemma for each field of the state under each update, true by `rfl`, so that no later proof unfolds an update; and
the fields that the conditional updates leave alone.
-/
namespace Sys2Proof.Laws

open Sys2Proof.Machine

variable (s : State)

@[simp] theorem setRdata_c7Rem (w : Word) : (s.setRdata w).c7Rem = s.c7Rem := rfl
@[simp] theorem setRdata_c16Acc (w : Word) : (s.setRdata w).c16Acc = s.c16Acc := rfl
@[simp] theorem setRdata_c16Mismatch (w : Word) : (s.setRdata w).c16Mismatch = s.c16Mismatch := rfl
@[simp] theorem setRdata_div (w : Word) : (s.setRdata w).div = s.div := rfl
@[simp] theorem setRdata_mode (w : Word) : (s.setRdata w).mode = s.mode := rfl
@[simp] theorem setRdata_txq (w : Word) : (s.setRdata w).txq = s.txq := rfl
@[simp] theorem setRdata_rxq (w : Word) : (s.setRdata w).rxq = s.rxq := rfl
@[simp] theorem setRdata_wire (w : Word) : (s.setRdata w).wire = s.wire := rfl
@[simp] theorem setRdata_rdata (w : Word) : (s.setRdata w).rdata = some w := rfl
@[simp] theorem setRdata_agenda (w : Word) : (s.setRdata w).agenda = s.agenda := rfl
@[simp] theorem setRdata_script (w : Word) : (s.setRdata w).script = s.script := rfl
@[simp] theorem setRdata_pace (w : Word) : (s.setRdata w).pace = s.pace := rfl
@[simp] theorem setRdata_draws (w : Word) : (s.setRdata w).draws = s.draws := rfl
@[simp] theorem setRdata_cmd (w : Word) : (s.setRdata w).cmd = s.cmd := rfl
@[simp] theorem setRdata_sent (w : Word) : (s.setRdata w).sent = s.sent := rfl
@[simp] theorem setRdata_taken (w : Word) : (s.setRdata w).taken = s.taken := rfl
@[simp] theorem setRdata_txLost (w : Word) : (s.setRdata w).txLost = s.txLost := rfl
@[simp] theorem setRdata_u1Met (w : Word) : (s.setRdata w).u1Met = s.u1Met := rfl

@[simp] theorem setAgenda_c7Rem (rest : List Turn) : (s.setAgenda rest).c7Rem = s.c7Rem := rfl
@[simp] theorem setAgenda_c16Acc (rest : List Turn) : (s.setAgenda rest).c16Acc = s.c16Acc := rfl
@[simp] theorem setAgenda_c16Mismatch (rest : List Turn) : (s.setAgenda rest).c16Mismatch = s.c16Mismatch := rfl
@[simp] theorem setAgenda_div (rest : List Turn) : (s.setAgenda rest).div = s.div := rfl
@[simp] theorem setAgenda_mode (rest : List Turn) : (s.setAgenda rest).mode = s.mode := rfl
@[simp] theorem setAgenda_txq (rest : List Turn) : (s.setAgenda rest).txq = s.txq := rfl
@[simp] theorem setAgenda_rxq (rest : List Turn) : (s.setAgenda rest).rxq = s.rxq := rfl
@[simp] theorem setAgenda_wire (rest : List Turn) : (s.setAgenda rest).wire = s.wire := rfl
@[simp] theorem setAgenda_rdata (rest : List Turn) : (s.setAgenda rest).rdata = s.rdata := rfl
@[simp] theorem setAgenda_agenda (rest : List Turn) : (s.setAgenda rest).agenda = rest := rfl
@[simp] theorem setAgenda_script (rest : List Turn) : (s.setAgenda rest).script = s.script := rfl
@[simp] theorem setAgenda_pace (rest : List Turn) : (s.setAgenda rest).pace = s.pace := rfl
@[simp] theorem setAgenda_draws (rest : List Turn) : (s.setAgenda rest).draws = s.draws := rfl
@[simp] theorem setAgenda_cmd (rest : List Turn) : (s.setAgenda rest).cmd = s.cmd := rfl
@[simp] theorem setAgenda_sent (rest : List Turn) : (s.setAgenda rest).sent = s.sent := rfl
@[simp] theorem setAgenda_taken (rest : List Turn) : (s.setAgenda rest).taken = s.taken := rfl
@[simp] theorem setAgenda_txLost (rest : List Turn) : (s.setAgenda rest).txLost = s.txLost := rfl
@[simp] theorem setAgenda_u1Met (rest : List Turn) : (s.setAgenda rest).u1Met = s.u1Met := rfl

@[simp] theorem setPace_c7Rem (rest : List Nat) : (s.setPace rest).c7Rem = s.c7Rem := rfl
@[simp] theorem setPace_c16Acc (rest : List Nat) : (s.setPace rest).c16Acc = s.c16Acc := rfl
@[simp] theorem setPace_c16Mismatch (rest : List Nat) : (s.setPace rest).c16Mismatch = s.c16Mismatch := rfl
@[simp] theorem setPace_div (rest : List Nat) : (s.setPace rest).div = s.div := rfl
@[simp] theorem setPace_mode (rest : List Nat) : (s.setPace rest).mode = s.mode := rfl
@[simp] theorem setPace_txq (rest : List Nat) : (s.setPace rest).txq = s.txq := rfl
@[simp] theorem setPace_rxq (rest : List Nat) : (s.setPace rest).rxq = s.rxq := rfl
@[simp] theorem setPace_wire (rest : List Nat) : (s.setPace rest).wire = s.wire := rfl
@[simp] theorem setPace_rdata (rest : List Nat) : (s.setPace rest).rdata = s.rdata := rfl
@[simp] theorem setPace_agenda (rest : List Nat) : (s.setPace rest).agenda = s.agenda := rfl
@[simp] theorem setPace_script (rest : List Nat) : (s.setPace rest).script = s.script := rfl
@[simp] theorem setPace_pace (rest : List Nat) : (s.setPace rest).pace = rest := rfl
@[simp] theorem setPace_draws (rest : List Nat) : (s.setPace rest).draws = s.draws := rfl
@[simp] theorem setPace_cmd (rest : List Nat) : (s.setPace rest).cmd = s.cmd := rfl
@[simp] theorem setPace_sent (rest : List Nat) : (s.setPace rest).sent = s.sent := rfl
@[simp] theorem setPace_taken (rest : List Nat) : (s.setPace rest).taken = s.taken := rfl
@[simp] theorem setPace_txLost (rest : List Nat) : (s.setPace rest).txLost = s.txLost := rfl
@[simp] theorem setPace_u1Met (rest : List Nat) : (s.setPace rest).u1Met = s.u1Met := rfl

@[simp] theorem bumpDraws_c7Rem : s.bumpDraws.c7Rem = s.c7Rem := rfl
@[simp] theorem bumpDraws_c16Acc : s.bumpDraws.c16Acc = s.c16Acc := rfl
@[simp] theorem bumpDraws_c16Mismatch : s.bumpDraws.c16Mismatch = s.c16Mismatch := rfl
@[simp] theorem bumpDraws_div : s.bumpDraws.div = s.div := rfl
@[simp] theorem bumpDraws_mode : s.bumpDraws.mode = s.mode := rfl
@[simp] theorem bumpDraws_txq : s.bumpDraws.txq = s.txq := rfl
@[simp] theorem bumpDraws_rxq : s.bumpDraws.rxq = s.rxq := rfl
@[simp] theorem bumpDraws_wire : s.bumpDraws.wire = s.wire := rfl
@[simp] theorem bumpDraws_rdata : s.bumpDraws.rdata = s.rdata := rfl
@[simp] theorem bumpDraws_agenda : s.bumpDraws.agenda = s.agenda := rfl
@[simp] theorem bumpDraws_script : s.bumpDraws.script = s.script := rfl
@[simp] theorem bumpDraws_pace : s.bumpDraws.pace = s.pace := rfl
@[simp] theorem bumpDraws_draws : s.bumpDraws.draws = s.draws + 1 := rfl
@[simp] theorem bumpDraws_cmd : s.bumpDraws.cmd = s.cmd := rfl
@[simp] theorem bumpDraws_sent : s.bumpDraws.sent = s.sent := rfl
@[simp] theorem bumpDraws_taken : s.bumpDraws.taken = s.taken := rfl
@[simp] theorem bumpDraws_txLost : s.bumpDraws.txLost = s.txLost := rfl
@[simp] theorem bumpDraws_u1Met : s.bumpDraws.u1Met = s.u1Met := rfl

@[simp] theorem meetU1_c7Rem : s.meetU1.c7Rem = s.c7Rem := rfl
@[simp] theorem meetU1_c16Acc : s.meetU1.c16Acc = s.c16Acc := rfl
@[simp] theorem meetU1_c16Mismatch : s.meetU1.c16Mismatch = s.c16Mismatch := rfl
@[simp] theorem meetU1_div : s.meetU1.div = s.div := rfl
@[simp] theorem meetU1_mode : s.meetU1.mode = s.mode := rfl
@[simp] theorem meetU1_txq : s.meetU1.txq = s.txq := rfl
@[simp] theorem meetU1_rxq : s.meetU1.rxq = s.rxq := rfl
@[simp] theorem meetU1_wire : s.meetU1.wire = s.wire := rfl
@[simp] theorem meetU1_rdata : s.meetU1.rdata = s.rdata := rfl
@[simp] theorem meetU1_agenda : s.meetU1.agenda = s.agenda := rfl
@[simp] theorem meetU1_script : s.meetU1.script = s.script := rfl
@[simp] theorem meetU1_pace : s.meetU1.pace = s.pace := rfl
@[simp] theorem meetU1_draws : s.meetU1.draws = s.draws := rfl
@[simp] theorem meetU1_cmd : s.meetU1.cmd = s.cmd := rfl
@[simp] theorem meetU1_sent : s.meetU1.sent = s.sent := rfl
@[simp] theorem meetU1_taken : s.meetU1.taken = s.taken := rfl
@[simp] theorem meetU1_txLost : s.meetU1.txLost = s.txLost := rfl
@[simp] theorem meetU1_u1Met : s.meetU1.u1Met = true := rfl

@[simp] theorem setRem_c7Rem (v : BitVec 7) : (s.setRem v).c7Rem = some v := rfl
@[simp] theorem setRem_c16Acc (v : BitVec 7) : (s.setRem v).c16Acc = s.c16Acc := rfl
@[simp] theorem setRem_c16Mismatch (v : BitVec 7) : (s.setRem v).c16Mismatch = s.c16Mismatch := rfl
@[simp] theorem setRem_div (v : BitVec 7) : (s.setRem v).div = s.div := rfl
@[simp] theorem setRem_mode (v : BitVec 7) : (s.setRem v).mode = s.mode := rfl
@[simp] theorem setRem_txq (v : BitVec 7) : (s.setRem v).txq = s.txq := rfl
@[simp] theorem setRem_rxq (v : BitVec 7) : (s.setRem v).rxq = s.rxq := rfl
@[simp] theorem setRem_wire (v : BitVec 7) : (s.setRem v).wire = s.wire := rfl
@[simp] theorem setRem_rdata (v : BitVec 7) : (s.setRem v).rdata = s.rdata := rfl
@[simp] theorem setRem_agenda (v : BitVec 7) : (s.setRem v).agenda = s.agenda := rfl
@[simp] theorem setRem_script (v : BitVec 7) : (s.setRem v).script = s.script := rfl
@[simp] theorem setRem_pace (v : BitVec 7) : (s.setRem v).pace = s.pace := rfl
@[simp] theorem setRem_draws (v : BitVec 7) : (s.setRem v).draws = s.draws := rfl
@[simp] theorem setRem_cmd (v : BitVec 7) : (s.setRem v).cmd = s.cmd := rfl
@[simp] theorem setRem_sent (v : BitVec 7) : (s.setRem v).sent = s.sent := rfl
@[simp] theorem setRem_taken (v : BitVec 7) : (s.setRem v).taken = s.taken := rfl
@[simp] theorem setRem_txLost (v : BitVec 7) : (s.setRem v).txLost = s.txLost := rfl
@[simp] theorem setRem_u1Met (v : BitVec 7) : (s.setRem v).u1Met = s.u1Met := rfl

@[simp] theorem setAcc_c7Rem (v : BitVec 16) : (s.setAcc v).c7Rem = s.c7Rem := rfl
@[simp] theorem setAcc_c16Acc (v : BitVec 16) : (s.setAcc v).c16Acc = some v := rfl
@[simp] theorem setAcc_c16Mismatch (v : BitVec 16) : (s.setAcc v).c16Mismatch = s.c16Mismatch := rfl
@[simp] theorem setAcc_div (v : BitVec 16) : (s.setAcc v).div = s.div := rfl
@[simp] theorem setAcc_mode (v : BitVec 16) : (s.setAcc v).mode = s.mode := rfl
@[simp] theorem setAcc_txq (v : BitVec 16) : (s.setAcc v).txq = s.txq := rfl
@[simp] theorem setAcc_rxq (v : BitVec 16) : (s.setAcc v).rxq = s.rxq := rfl
@[simp] theorem setAcc_wire (v : BitVec 16) : (s.setAcc v).wire = s.wire := rfl
@[simp] theorem setAcc_rdata (v : BitVec 16) : (s.setAcc v).rdata = s.rdata := rfl
@[simp] theorem setAcc_agenda (v : BitVec 16) : (s.setAcc v).agenda = s.agenda := rfl
@[simp] theorem setAcc_script (v : BitVec 16) : (s.setAcc v).script = s.script := rfl
@[simp] theorem setAcc_pace (v : BitVec 16) : (s.setAcc v).pace = s.pace := rfl
@[simp] theorem setAcc_draws (v : BitVec 16) : (s.setAcc v).draws = s.draws := rfl
@[simp] theorem setAcc_cmd (v : BitVec 16) : (s.setAcc v).cmd = s.cmd := rfl
@[simp] theorem setAcc_sent (v : BitVec 16) : (s.setAcc v).sent = s.sent := rfl
@[simp] theorem setAcc_taken (v : BitVec 16) : (s.setAcc v).taken = s.taken := rfl
@[simp] theorem setAcc_txLost (v : BitVec 16) : (s.setAcc v).txLost = s.txLost := rfl
@[simp] theorem setAcc_u1Met (v : BitVec 16) : (s.setAcc v).u1Met = s.u1Met := rfl

@[simp] theorem setMismatch_c7Rem (v : Bool) : (s.setMismatch v).c7Rem = s.c7Rem := rfl
@[simp] theorem setMismatch_c16Acc (v : Bool) : (s.setMismatch v).c16Acc = s.c16Acc := rfl
@[simp] theorem setMismatch_c16Mismatch (v : Bool) : (s.setMismatch v).c16Mismatch = some v := rfl
@[simp] theorem setMismatch_div (v : Bool) : (s.setMismatch v).div = s.div := rfl
@[simp] theorem setMismatch_mode (v : Bool) : (s.setMismatch v).mode = s.mode := rfl
@[simp] theorem setMismatch_txq (v : Bool) : (s.setMismatch v).txq = s.txq := rfl
@[simp] theorem setMismatch_rxq (v : Bool) : (s.setMismatch v).rxq = s.rxq := rfl
@[simp] theorem setMismatch_wire (v : Bool) : (s.setMismatch v).wire = s.wire := rfl
@[simp] theorem setMismatch_rdata (v : Bool) : (s.setMismatch v).rdata = s.rdata := rfl
@[simp] theorem setMismatch_agenda (v : Bool) : (s.setMismatch v).agenda = s.agenda := rfl
@[simp] theorem setMismatch_script (v : Bool) : (s.setMismatch v).script = s.script := rfl
@[simp] theorem setMismatch_pace (v : Bool) : (s.setMismatch v).pace = s.pace := rfl
@[simp] theorem setMismatch_draws (v : Bool) : (s.setMismatch v).draws = s.draws := rfl
@[simp] theorem setMismatch_cmd (v : Bool) : (s.setMismatch v).cmd = s.cmd := rfl
@[simp] theorem setMismatch_sent (v : Bool) : (s.setMismatch v).sent = s.sent := rfl
@[simp] theorem setMismatch_taken (v : Bool) : (s.setMismatch v).taken = s.taken := rfl
@[simp] theorem setMismatch_txLost (v : Bool) : (s.setMismatch v).txLost = s.txLost := rfl
@[simp] theorem setMismatch_u1Met (v : Bool) : (s.setMismatch v).u1Met = s.u1Met := rfl

@[simp] theorem setDiv_c7Rem (d : BitVec 12) : (s.setDiv d).c7Rem = s.c7Rem := rfl
@[simp] theorem setDiv_c16Acc (d : BitVec 12) : (s.setDiv d).c16Acc = s.c16Acc := rfl
@[simp] theorem setDiv_c16Mismatch (d : BitVec 12) : (s.setDiv d).c16Mismatch = s.c16Mismatch := rfl
@[simp] theorem setDiv_div (d : BitVec 12) : (s.setDiv d).div = d := rfl
@[simp] theorem setDiv_mode (d : BitVec 12) : (s.setDiv d).mode = s.mode := rfl
@[simp] theorem setDiv_txq (d : BitVec 12) : (s.setDiv d).txq = s.txq := rfl
@[simp] theorem setDiv_rxq (d : BitVec 12) : (s.setDiv d).rxq = s.rxq := rfl
@[simp] theorem setDiv_wire (d : BitVec 12) : (s.setDiv d).wire = s.wire := rfl
@[simp] theorem setDiv_rdata (d : BitVec 12) : (s.setDiv d).rdata = s.rdata := rfl
@[simp] theorem setDiv_agenda (d : BitVec 12) : (s.setDiv d).agenda = s.agenda := rfl
@[simp] theorem setDiv_script (d : BitVec 12) : (s.setDiv d).script = s.script := rfl
@[simp] theorem setDiv_pace (d : BitVec 12) : (s.setDiv d).pace = s.pace := rfl
@[simp] theorem setDiv_draws (d : BitVec 12) : (s.setDiv d).draws = s.draws := rfl
@[simp] theorem setDiv_cmd (d : BitVec 12) : (s.setDiv d).cmd = s.cmd := rfl
@[simp] theorem setDiv_sent (d : BitVec 12) : (s.setDiv d).sent = s.sent := rfl
@[simp] theorem setDiv_taken (d : BitVec 12) : (s.setDiv d).taken = s.taken := rfl
@[simp] theorem setDiv_txLost (d : BitVec 12) : (s.setDiv d).txLost = s.txLost := rfl
@[simp] theorem setDiv_u1Met (d : BitVec 12) : (s.setDiv d).u1Met = s.u1Met := rfl

@[simp] theorem setMode_c7Rem (m : CsMode) : (s.setMode m).c7Rem = s.c7Rem := rfl
@[simp] theorem setMode_c16Acc (m : CsMode) : (s.setMode m).c16Acc = s.c16Acc := rfl
@[simp] theorem setMode_c16Mismatch (m : CsMode) : (s.setMode m).c16Mismatch = s.c16Mismatch := rfl
@[simp] theorem setMode_div (m : CsMode) : (s.setMode m).div = s.div := rfl
@[simp] theorem setMode_mode (m : CsMode) : (s.setMode m).mode = m := rfl
@[simp] theorem setMode_txq (m : CsMode) : (s.setMode m).txq = s.txq := rfl
@[simp] theorem setMode_rxq (m : CsMode) : (s.setMode m).rxq = s.rxq := rfl
@[simp] theorem setMode_wire (m : CsMode) : (s.setMode m).wire = s.wire ++ [.mode m] := rfl
@[simp] theorem setMode_rdata (m : CsMode) : (s.setMode m).rdata = s.rdata := rfl
@[simp] theorem setMode_agenda (m : CsMode) : (s.setMode m).agenda = s.agenda := rfl
@[simp] theorem setMode_script (m : CsMode) : (s.setMode m).script = s.script := rfl
@[simp] theorem setMode_pace (m : CsMode) : (s.setMode m).pace = s.pace := rfl
@[simp] theorem setMode_draws (m : CsMode) : (s.setMode m).draws = s.draws := rfl
@[simp] theorem setMode_cmd (m : CsMode) : (s.setMode m).cmd = s.cmd := rfl
@[simp] theorem setMode_sent (m : CsMode) : (s.setMode m).sent = s.sent := rfl
@[simp] theorem setMode_taken (m : CsMode) : (s.setMode m).taken = s.taken := rfl
@[simp] theorem setMode_txLost (m : CsMode) : (s.setMode m).txLost = s.txLost := rfl
@[simp] theorem setMode_u1Met (m : CsMode) : (s.setMode m).u1Met = s.u1Met := rfl

@[simp] theorem setCmd_c7Rem (c : CmdResult) : (s.setCmd c).c7Rem = s.c7Rem := rfl
@[simp] theorem setCmd_c16Acc (c : CmdResult) : (s.setCmd c).c16Acc = s.c16Acc := rfl
@[simp] theorem setCmd_c16Mismatch (c : CmdResult) : (s.setCmd c).c16Mismatch = s.c16Mismatch := rfl
@[simp] theorem setCmd_div (c : CmdResult) : (s.setCmd c).div = s.div := rfl
@[simp] theorem setCmd_mode (c : CmdResult) : (s.setCmd c).mode = s.mode := rfl
@[simp] theorem setCmd_txq (c : CmdResult) : (s.setCmd c).txq = s.txq := rfl
@[simp] theorem setCmd_rxq (c : CmdResult) : (s.setCmd c).rxq = s.rxq := rfl
@[simp] theorem setCmd_wire (c : CmdResult) : (s.setCmd c).wire = s.wire := rfl
@[simp] theorem setCmd_rdata (c : CmdResult) : (s.setCmd c).rdata = s.rdata := rfl
@[simp] theorem setCmd_agenda (c : CmdResult) : (s.setCmd c).agenda = s.agenda := rfl
@[simp] theorem setCmd_script (c : CmdResult) : (s.setCmd c).script = s.script := rfl
@[simp] theorem setCmd_pace (c : CmdResult) : (s.setCmd c).pace = s.pace := rfl
@[simp] theorem setCmd_draws (c : CmdResult) : (s.setCmd c).draws = s.draws := rfl
@[simp] theorem setCmd_cmd (c : CmdResult) : (s.setCmd c).cmd = some c := rfl
@[simp] theorem setCmd_sent (c : CmdResult) : (s.setCmd c).sent = s.sent := rfl
@[simp] theorem setCmd_taken (c : CmdResult) : (s.setCmd c).taken = s.taken := rfl
@[simp] theorem setCmd_txLost (c : CmdResult) : (s.setCmd c).txLost = s.txLost := rfl
@[simp] theorem setCmd_u1Met (c : CmdResult) : (s.setCmd c).u1Met = s.u1Met := rfl

@[simp] theorem exchangeByte_c7Rem (t : Byte) : (s.exchangeByte t).c7Rem = s.c7Rem := rfl
@[simp] theorem exchangeByte_c16Acc (t : Byte) : (s.exchangeByte t).c16Acc = s.c16Acc := rfl
@[simp] theorem exchangeByte_c16Mismatch (t : Byte) : (s.exchangeByte t).c16Mismatch = s.c16Mismatch := rfl
@[simp] theorem exchangeByte_div (t : Byte) : (s.exchangeByte t).div = s.div := rfl
@[simp] theorem exchangeByte_mode (t : Byte) : (s.exchangeByte t).mode = s.mode := rfl
@[simp] theorem exchangeByte_txq (t : Byte) : (s.exchangeByte t).txq = s.txq.tail := rfl
@[simp] theorem exchangeByte_rxq (t : Byte) : (s.exchangeByte t).rxq = s.rxq ++ [cardByte s t] := rfl
@[simp] theorem exchangeByte_wire (t : Byte) : (s.exchangeByte t).wire = s.wire ++ [.exchange (csLevel s.mode) t (cardByte s t)] := rfl
@[simp] theorem exchangeByte_rdata (t : Byte) : (s.exchangeByte t).rdata = s.rdata := rfl
@[simp] theorem exchangeByte_agenda (t : Byte) : (s.exchangeByte t).agenda = s.agenda := rfl
@[simp] theorem exchangeByte_script (t : Byte) : (s.exchangeByte t).script = s.script.tail := rfl
@[simp] theorem exchangeByte_pace (t : Byte) : (s.exchangeByte t).pace = s.pace := rfl
@[simp] theorem exchangeByte_draws (t : Byte) : (s.exchangeByte t).draws = s.draws := rfl
@[simp] theorem exchangeByte_cmd (t : Byte) : (s.exchangeByte t).cmd = s.cmd := rfl
@[simp] theorem exchangeByte_sent (t : Byte) : (s.exchangeByte t).sent = s.sent := rfl
@[simp] theorem exchangeByte_taken (t : Byte) : (s.exchangeByte t).taken = s.taken := rfl
@[simp] theorem exchangeByte_txLost (t : Byte) : (s.exchangeByte t).txLost = s.txLost := rfl
@[simp] theorem exchangeByte_u1Met (t : Byte) : (s.exchangeByte t).u1Met = s.u1Met := rfl

@[simp] theorem enqueue_c7Rem (b : Byte) : (s.enqueue b).c7Rem = s.c7Rem := by
  unfold State.enqueue; split <;> rfl
@[simp] theorem enqueue_c16Acc (b : Byte) : (s.enqueue b).c16Acc = s.c16Acc := by
  unfold State.enqueue; split <;> rfl
@[simp] theorem enqueue_c16Mismatch (b : Byte) : (s.enqueue b).c16Mismatch = s.c16Mismatch := by
  unfold State.enqueue; split <;> rfl
@[simp] theorem enqueue_div (b : Byte) : (s.enqueue b).div = s.div := by
  unfold State.enqueue; split <;> rfl
@[simp] theorem enqueue_mode (b : Byte) : (s.enqueue b).mode = s.mode := by
  unfold State.enqueue; split <;> rfl
@[simp] theorem enqueue_rxq (b : Byte) : (s.enqueue b).rxq = s.rxq := by
  unfold State.enqueue; split <;> rfl
@[simp] theorem enqueue_wire (b : Byte) : (s.enqueue b).wire = s.wire := by
  unfold State.enqueue; split <;> rfl
@[simp] theorem enqueue_rdata (b : Byte) : (s.enqueue b).rdata = s.rdata := by
  unfold State.enqueue; split <;> rfl
@[simp] theorem enqueue_agenda (b : Byte) : (s.enqueue b).agenda = s.agenda := by
  unfold State.enqueue; split <;> rfl
@[simp] theorem enqueue_script (b : Byte) : (s.enqueue b).script = s.script := by
  unfold State.enqueue; split <;> rfl
@[simp] theorem enqueue_pace (b : Byte) : (s.enqueue b).pace = s.pace := by
  unfold State.enqueue; split <;> rfl
@[simp] theorem enqueue_draws (b : Byte) : (s.enqueue b).draws = s.draws := by
  unfold State.enqueue; split <;> rfl
@[simp] theorem enqueue_cmd (b : Byte) : (s.enqueue b).cmd = s.cmd := by
  unfold State.enqueue; split <;> rfl
@[simp] theorem enqueue_taken (b : Byte) : (s.enqueue b).taken = s.taken := by
  unfold State.enqueue; split <;> rfl
@[simp] theorem enqueue_u1Met (b : Byte) : (s.enqueue b).u1Met = s.u1Met := by
  unfold State.enqueue; split <;> rfl

@[simp] theorem receive_c7Rem : s.receive.c7Rem = s.c7Rem := by
  unfold State.receive; split <;> rfl
@[simp] theorem receive_c16Acc : s.receive.c16Acc = s.c16Acc := by
  unfold State.receive; split <;> rfl
@[simp] theorem receive_c16Mismatch : s.receive.c16Mismatch = s.c16Mismatch := by
  unfold State.receive; split <;> rfl
@[simp] theorem receive_div : s.receive.div = s.div := by
  unfold State.receive; split <;> rfl
@[simp] theorem receive_mode : s.receive.mode = s.mode := by
  unfold State.receive; split <;> rfl
@[simp] theorem receive_txq : s.receive.txq = s.txq := by
  unfold State.receive; split <;> rfl
@[simp] theorem receive_wire : s.receive.wire = s.wire := by
  unfold State.receive; split <;> rfl
@[simp] theorem receive_agenda : s.receive.agenda = s.agenda := by
  unfold State.receive; split <;> rfl
@[simp] theorem receive_script : s.receive.script = s.script := by
  unfold State.receive; split <;> rfl
@[simp] theorem receive_pace : s.receive.pace = s.pace := by
  unfold State.receive; split <;> rfl
@[simp] theorem receive_cmd : s.receive.cmd = s.cmd := by
  unfold State.receive; split <;> rfl
@[simp] theorem receive_sent : s.receive.sent = s.sent := by
  unfold State.receive; split <;> rfl
@[simp] theorem receive_txLost : s.receive.txLost = s.txLost := by
  unfold State.receive; split <;> rfl
@[simp] theorem receive_u1Met : s.receive.u1Met = s.u1Met := by
  unfold State.receive; split <;> rfl

@[simp] theorem shifted_c7Rem : s.shifted.c7Rem = s.c7Rem := by
  unfold State.shifted; split <;> rfl
@[simp] theorem shifted_c16Acc : s.shifted.c16Acc = s.c16Acc := by
  unfold State.shifted; split <;> rfl
@[simp] theorem shifted_c16Mismatch : s.shifted.c16Mismatch = s.c16Mismatch := by
  unfold State.shifted; split <;> rfl
@[simp] theorem shifted_div : s.shifted.div = s.div := by
  unfold State.shifted; split <;> rfl
@[simp] theorem shifted_mode : s.shifted.mode = s.mode := by
  unfold State.shifted; split <;> rfl
@[simp] theorem shifted_rdata : s.shifted.rdata = s.rdata := by
  unfold State.shifted; split <;> rfl
@[simp] theorem shifted_agenda : s.shifted.agenda = s.agenda := by
  unfold State.shifted; split <;> rfl
@[simp] theorem shifted_pace : s.shifted.pace = s.pace := by
  unfold State.shifted; split <;> rfl
@[simp] theorem shifted_draws : s.shifted.draws = s.draws := by
  unfold State.shifted; split <;> rfl
@[simp] theorem shifted_cmd : s.shifted.cmd = s.cmd := by
  unfold State.shifted; split <;> rfl
@[simp] theorem shifted_sent : s.shifted.sent = s.sent := by
  unfold State.shifted; split <;> rfl
@[simp] theorem shifted_taken : s.shifted.taken = s.taken := by
  unfold State.shifted; split <;> rfl
@[simp] theorem shifted_txLost : s.shifted.txLost = s.txLost := by
  unfold State.shifted; split <;> rfl
@[simp] theorem shifted_u1Met : s.shifted.u1Met = s.u1Met := by
  unfold State.shifted; split <;> rfl

@[simp] theorem foldRem_c16Acc (b : Byte) : (s.foldRem b).c16Acc = s.c16Acc := by
  unfold State.foldRem; split <;> rfl
@[simp] theorem foldRem_c16Mismatch (b : Byte) : (s.foldRem b).c16Mismatch = s.c16Mismatch := by
  unfold State.foldRem; split <;> rfl
@[simp] theorem foldRem_div (b : Byte) : (s.foldRem b).div = s.div := by
  unfold State.foldRem; split <;> rfl
@[simp] theorem foldRem_mode (b : Byte) : (s.foldRem b).mode = s.mode := by
  unfold State.foldRem; split <;> rfl
@[simp] theorem foldRem_txq (b : Byte) : (s.foldRem b).txq = s.txq := by
  unfold State.foldRem; split <;> rfl
@[simp] theorem foldRem_rxq (b : Byte) : (s.foldRem b).rxq = s.rxq := by
  unfold State.foldRem; split <;> rfl
@[simp] theorem foldRem_wire (b : Byte) : (s.foldRem b).wire = s.wire := by
  unfold State.foldRem; split <;> rfl
@[simp] theorem foldRem_rdata (b : Byte) : (s.foldRem b).rdata = s.rdata := by
  unfold State.foldRem; split <;> rfl
@[simp] theorem foldRem_agenda (b : Byte) : (s.foldRem b).agenda = s.agenda := by
  unfold State.foldRem; split <;> rfl
@[simp] theorem foldRem_script (b : Byte) : (s.foldRem b).script = s.script := by
  unfold State.foldRem; split <;> rfl
@[simp] theorem foldRem_pace (b : Byte) : (s.foldRem b).pace = s.pace := by
  unfold State.foldRem; split <;> rfl
@[simp] theorem foldRem_draws (b : Byte) : (s.foldRem b).draws = s.draws := by
  unfold State.foldRem; split <;> rfl
@[simp] theorem foldRem_cmd (b : Byte) : (s.foldRem b).cmd = s.cmd := by
  unfold State.foldRem; split <;> rfl
@[simp] theorem foldRem_sent (b : Byte) : (s.foldRem b).sent = s.sent := by
  unfold State.foldRem; split <;> rfl
@[simp] theorem foldRem_taken (b : Byte) : (s.foldRem b).taken = s.taken := by
  unfold State.foldRem; split <;> rfl
@[simp] theorem foldRem_txLost (b : Byte) : (s.foldRem b).txLost = s.txLost := by
  unfold State.foldRem; split <;> rfl

@[simp] theorem foldAcc_c7Rem (b : Byte) : (s.foldAcc b).c7Rem = s.c7Rem := by
  unfold State.foldAcc; split <;> rfl
@[simp] theorem foldAcc_c16Mismatch (b : Byte) : (s.foldAcc b).c16Mismatch = s.c16Mismatch := by
  unfold State.foldAcc; split <;> rfl
@[simp] theorem foldAcc_div (b : Byte) : (s.foldAcc b).div = s.div := by
  unfold State.foldAcc; split <;> rfl
@[simp] theorem foldAcc_mode (b : Byte) : (s.foldAcc b).mode = s.mode := by
  unfold State.foldAcc; split <;> rfl
@[simp] theorem foldAcc_txq (b : Byte) : (s.foldAcc b).txq = s.txq := by
  unfold State.foldAcc; split <;> rfl
@[simp] theorem foldAcc_rxq (b : Byte) : (s.foldAcc b).rxq = s.rxq := by
  unfold State.foldAcc; split <;> rfl
@[simp] theorem foldAcc_wire (b : Byte) : (s.foldAcc b).wire = s.wire := by
  unfold State.foldAcc; split <;> rfl
@[simp] theorem foldAcc_rdata (b : Byte) : (s.foldAcc b).rdata = s.rdata := by
  unfold State.foldAcc; split <;> rfl
@[simp] theorem foldAcc_agenda (b : Byte) : (s.foldAcc b).agenda = s.agenda := by
  unfold State.foldAcc; split <;> rfl
@[simp] theorem foldAcc_script (b : Byte) : (s.foldAcc b).script = s.script := by
  unfold State.foldAcc; split <;> rfl
@[simp] theorem foldAcc_pace (b : Byte) : (s.foldAcc b).pace = s.pace := by
  unfold State.foldAcc; split <;> rfl
@[simp] theorem foldAcc_draws (b : Byte) : (s.foldAcc b).draws = s.draws := by
  unfold State.foldAcc; split <;> rfl
@[simp] theorem foldAcc_cmd (b : Byte) : (s.foldAcc b).cmd = s.cmd := by
  unfold State.foldAcc; split <;> rfl
@[simp] theorem foldAcc_sent (b : Byte) : (s.foldAcc b).sent = s.sent := by
  unfold State.foldAcc; split <;> rfl
@[simp] theorem foldAcc_taken (b : Byte) : (s.foldAcc b).taken = s.taken := by
  unfold State.foldAcc; split <;> rfl
@[simp] theorem foldAcc_txLost (b : Byte) : (s.foldAcc b).txLost = s.txLost := by
  unfold State.foldAcc; split <;> rfl

variable {α : Type} (reg : Option α)

@[simp] theorem afterRead_c7Rem : (s.afterRead reg).c7Rem = s.c7Rem := by
  unfold State.afterRead; split <;> rfl
@[simp] theorem afterRead_c16Acc : (s.afterRead reg).c16Acc = s.c16Acc := by
  unfold State.afterRead; split <;> rfl
@[simp] theorem afterRead_c16Mismatch : (s.afterRead reg).c16Mismatch = s.c16Mismatch := by
  unfold State.afterRead; split <;> rfl
@[simp] theorem afterRead_div : (s.afterRead reg).div = s.div := by
  unfold State.afterRead; split <;> rfl
@[simp] theorem afterRead_mode : (s.afterRead reg).mode = s.mode := by
  unfold State.afterRead; split <;> rfl
@[simp] theorem afterRead_txq : (s.afterRead reg).txq = s.txq := by
  unfold State.afterRead; split <;> rfl
@[simp] theorem afterRead_rxq : (s.afterRead reg).rxq = s.rxq := by
  unfold State.afterRead; split <;> rfl
@[simp] theorem afterRead_wire : (s.afterRead reg).wire = s.wire := by
  unfold State.afterRead; split <;> rfl
@[simp] theorem afterRead_rdata : (s.afterRead reg).rdata = s.rdata := by
  unfold State.afterRead; split <;> rfl
@[simp] theorem afterRead_agenda : (s.afterRead reg).agenda = s.agenda := by
  unfold State.afterRead; split <;> rfl
@[simp] theorem afterRead_script : (s.afterRead reg).script = s.script := by
  unfold State.afterRead; split <;> rfl
@[simp] theorem afterRead_pace : (s.afterRead reg).pace = s.pace := by
  unfold State.afterRead; split <;> rfl
@[simp] theorem afterRead_cmd : (s.afterRead reg).cmd = s.cmd := by
  unfold State.afterRead; split <;> rfl
@[simp] theorem afterRead_sent : (s.afterRead reg).sent = s.sent := by
  unfold State.afterRead; split <;> rfl
@[simp] theorem afterRead_taken : (s.afterRead reg).taken = s.taken := by
  unfold State.afterRead; split <;> rfl
@[simp] theorem afterRead_txLost : (s.afterRead reg).txLost = s.txLost := by
  unfold State.afterRead; split <;> rfl

end Sys2Proof.Laws
end

