-- ==== Sys2Proof/Laws/Ops.lean ====
section
/-!
SUPPORT. What each shared operation can do, said once: the lemmas that proofs about the machine cite instead of unfolding the
operations.
-/
namespace Sys2Proof.Laws

open Sys2Proof.Machine

theorem fifoDepth_pos : 0 < Config.fifoDepth := Nat.succ_pos _

theorem txFull_iff (s : State) : txFull s = true ↔ s.txq.length = Config.fifoDepth := by simp [txFull]

theorem rxFull_iff (s : State) : rxFull s = true ↔ s.rxq.length = Config.fifoDepth := by simp [rxFull]

theorem txFull_of_empty (s : State) (h : s.txq = []) : txFull s = false := by
  simp [txFull, h, Config.fifoDepth]

theorem rxFull_of_empty (s : State) (h : s.rxq = []) : rxFull s = false := by
  simp [rxFull, h, Config.fifoDepth]

/-- A register that holds a value reads as that value. -/
@[simp] theorem remBits_of_some (s : State) (r : BitVec 7) (h : s.c7Rem = some r) : remBits s = r := by
  simp [remBits, h]

@[simp] theorem accBits_of_some (s : State) (a : BitVec 16) (h : s.c16Acc = some a) : accBits s = a := by
  simp [accBits, h]

@[simp] theorem mismatchBit_of_some (s : State) (m : Bool) (h : s.c16Mismatch = some m) : mismatchBit s = m := by
  simp [mismatchBit, h]

/-- A read uses up a draw, and meets U1, exactly where the register holds no value. -/
theorem afterRead_cases {α : Type} (s : State) (reg : Option α) :
    (reg.isSome ∧ s.afterRead reg = s) ∨ (reg = none ∧ s.afterRead reg = s.bumpDraws.meetU1) := by
  cases reg <;> simp [State.afterRead]

@[simp] theorem afterRead_some {α : Type} (s : State) (v : α) : s.afterRead (some v) = s := rfl

@[simp] theorem afterRead_none {α : Type} (s : State) : s.afterRead (none : Option α) = s.bumpDraws.meetU1 := rfl

/-- `C7.FOLD`: the remainder is folded where there is one, else U1 is met and nothing is held. -/
theorem foldRem_cases (s : State) (b : Byte) :
    (∃ r, s.c7Rem = some r ∧ s.foldRem b = s.setRem (crc7 r b)) ∨ (s.c7Rem = none ∧ s.foldRem b = s.meetU1) := by
  cases h : s.c7Rem <;> simp [State.foldRem, h]

/-- `C16.FOLD`, as `foldRem_cases`. -/
theorem foldAcc_cases (s : State) (b : Byte) :
    (∃ a, s.c16Acc = some a ∧ s.foldAcc b = s.setAcc (crc16 a b)) ∨ (s.c16Acc = none ∧ s.foldAcc b = s.meetU1) := by
  cases h : s.c16Acc <;> simp [State.foldAcc, h]

/-- `SPI.TX`: the byte goes to the tail of the queue where there is room, else the queue becomes what the parameter of U5 says
and the ghost flag is set. -/
theorem enqueue_cases (s : State) (b : Byte) :
    (txFull s = false ∧ s.enqueue b = { s with txq := s.txq ++ [b], sent := s.sent ++ [b] }) ∨
    (txFull s = true ∧ s.enqueue b =
      { s with txq := fullTxq Config.txFullPolicy s.txq b, sent := s.sent ++ [b], txLost := true }) := by
  cases h : txFull s <;> simp [State.enqueue, h]

/-- `SPI.RX`: the sentinel word and nothing else from an empty queue, else the oldest byte. -/
theorem receive_cases (s : State) :
    (s.rxq = [] ∧ s.receive =
      { s with rdata := some (sentinelWord (Config.anyWord s.draws)), draws := s.draws + 1 }) ∨
    (∃ r rest, s.rxq = r :: rest ∧ s.receive =
      { s with rxq := rest, taken := s.taken ++ [r], rdata := some (readField r) }) := by
  unfold State.receive
  split <;> rename_i h
  · exact .inl ⟨h, rfl⟩
  · exact .inr ⟨_, _, h, rfl⟩

/-- `SHIFT`: nothing where no byte is queued, else one exchange of the oldest byte. -/
theorem shifted_cases (s : State) :
    (s.txq = [] ∧ s.shifted = s) ∨ (∃ t rest, s.txq = t :: rest ∧ s.shifted = s.exchangeByte t) := by
  unfold State.shifted
  split <;> rename_i h
  · exact .inl ⟨h, rfl⟩
  · exact .inr ⟨_, _, h, rfl⟩

/-- A turn of the shifter ends in the shifted state, or is refused for a receive overflow. -/
theorem shift_cases (s : State) :
    (shift s = .next s.shifted ∧ (s.txq = [] ∨ rxFull s = false)) ∨
    (shift s = .refused .receiveOverflow ∧ s.txq ≠ [] ∧ rxFull s = true) := by
  unfold shift
  cases hq : s.txq <;> cases hr : rxFull s <;> simp

/-- Issuing a word fetches what the decoder reads from it. -/
theorem fetch_word (w : HostWord) :
    fetch (.word w) = match decode w with
      | .error why => .error (.reservedWord why)
      | .ok i => .ok i := rfl

/-- What one step can do: a turn of the shifter, an instruction of the host, or the refusal of what is no instruction. -/
theorem step_cases (s : State) :
    (s.agenda = [] ∧ step s = shift s) ∨
    (∃ rest, s.agenda = .shifter :: rest ∧ step s = shift (s.setAgenda rest)) ∨
    (∃ item rest i, s.agenda = .host item :: rest ∧ fetch item = .ok i ∧ step s = exec i (s.setAgenda rest)) ∨
    (∃ item rest r, s.agenda = .host item :: rest ∧ fetch item = .error r ∧ step s = .refused r) := by
  unfold step
  split <;> rename_i h
  · exact .inl ⟨h, rfl⟩
  · exact .inr (.inl ⟨_, h, rfl⟩)
  · rename_i item rest
    split <;> rename_i hf
    · exact .inr (.inr (.inr ⟨item, rest, _, h, hf, rfl⟩))
    · exact .inr (.inr (.inl ⟨item, rest, _, h, hf, rfl⟩))

/-- The numbers of the modes name them (R87). -/
@[simp] theorem csModeOfBits_csModeBits (m : CsMode) : csModeOfBits (csModeBits m) = some m := by
  cases m <;> decide

theorem csModeOfBits_eq_none_iff (m : BitVec 2) : csModeOfBits m = none ↔ m = 1#2 := by
  revert m; decide

/-- The byte in a word read from a queue that held it. -/
@[simp] theorem rxByte_readField (r : Byte) : rxByte (readField r) = r := by
  simp only [rxByte, readField]
  ext i hi
  simp only [BitVec.getElem_extractLsb', Nat.zero_add, BitVec.getLsbD_setWidth, BitVec.getLsbD_eq_getElem hi]
  simp only [show i < 32 by omega, decide_true, Bool.true_and]

/-- A word read from an empty queue says so, whatever the bits below (R88). -/
theorem rxIsSentinel_sentinelWord (low : Word) : rxIsSentinel (sentinelWord low) = true := by
  simp only [rxIsSentinel, sentinelWord, BitVec.getLsbD_append]
  simp

/-- A word that carries a byte is no sentinel (R88). -/
theorem rxIsSentinel_readField (r : Byte) : rxIsSentinel (readField r) = false := by
  simp only [rxIsSentinel, readField, BitVec.getLsbD_setWidth]
  simp

end Sys2Proof.Laws
end

