-- ==== Sys2Proof/Laws/Frames.lean ====
section
/-!
SUPPORT. What the parts of a command unit do from a quiescent unit: each part is a run of wire events, and runs compose.
-/
namespace Sys2Proof.Laws

open Sys2Proof.Machine

@[simp] theorem wireSent_append (a b : List WireEvent) : wireSent (a ++ b) = wireSent a ++ wireSent b := by
  simp [wireSent]

@[simp] theorem wireGot_append (a b : List WireEvent) : wireGot (a ++ b) = wireGot a ++ wireGot b := by
  simp [wireGot]

@[simp] theorem wireMode_append (m : CsMode) (a b : List WireEvent) :
    wireMode m (a ++ b) = wireMode (wireMode m a) b := by simp [wireMode]

theorem levelsFollowModes_append (m : CsMode) (a b : List WireEvent) :
    LevelsFollowModes m (a ++ b) ↔ LevelsFollowModes m a ∧ LevelsFollowModes (wireMode m a) b := by
  induction a generalizing m with
  | nil => simp [LevelsFollowModes, wireMode]
  | cons e a ih =>
    cases e with
    | mode m' => simpa [LevelsFollowModes, wireMode] using ih m'
    | exchange cs t r => simp [LevelsFollowModes, wireMode, ih m, and_assoc]

theorem repliesFromCard_append (script : List Byte) (wire a b : List WireEvent) :
    RepliesFromCard script wire (a ++ b) ↔
      RepliesFromCard script wire a ∧ RepliesFromCard (script.drop (wireGot a).length) (wire ++ a) b := by
  induction a generalizing script wire with
  | nil => simp [RepliesFromCard, wireGot]
  | cons e a ih =>
    cases e with
    | mode m =>
      have := ih script (wire ++ [.mode m])
      simp only [List.append_assoc, List.singleton_append] at this
      simp [RepliesFromCard, wireGot, this]
    | exchange cs t r =>
      have := ih script.tail (wire ++ [.exchange cs t r])
      simp only [List.append_assoc, List.singleton_append] at this
      simp [RepliesFromCard, wireGot, this, and_assoc]

/-- One more step of a run, for any machine. -/
theorem core_run_succ (M : Host.Core) (n : Nat) (s : M.State) :
    M.run (n + 1) s = (match M.step s with
      | .next t => M.run n t
      | .fault r => .fault r
      | .refused r => .refused r) := rfl

theorem runsTo_zero (s : State) : RunsTo 0 s s := rfl

/-- A run whose first step is known. -/
theorem runsTo_succ {n : Nat} {s t u : State} (h : step s = .next t) : RunsTo (n + 1) s u ↔ RunsTo n t u := by
  unfold RunsTo
  rw [core_run_succ Sys2Proof.core n s, show Sys2Proof.core.step s = .next t from h]

/-- Runs follow one another. -/
theorem runsTo_add {m n : Nat} {s t u : State} (h : RunsTo m s t) (h' : RunsTo n t u) : RunsTo (m + n) s u := by
  induction m generalizing s with
  | zero => cases h; simpa using h'
  | succ m ih =>
    rw [Nat.succ_add]
    cases hs : step s with
    | next v => exact (runsTo_succ hs).2 (ih ((runsTo_succ hs).1 h))
    | fault r => cases r
    | refused r =>
      unfold RunsTo at h
      rw [core_run_succ Sys2Proof.core m s, show Sys2Proof.core.step s = .refused r from hs] at h
      cases h

/-- Runs of wire events compose. -/
theorem wireRun_trans {s t u : State} {a b : List WireEvent} (h₁ : WireRun s t a) (h₂ : WireRun t u b) :
    WireRun s u (a ++ b) := by
  obtain ⟨w₁, m₁, l₁, s₁, k₁, c₁, r₁, f₁⟩ := h₁
  obtain ⟨w₂, m₂, l₂, s₂, k₂, c₂, r₂, f₂⟩ := h₂
  obtain ⟨f₁a, f₁b, f₁c, f₁d, f₁e, f₁f, f₁g, f₁h, f₁i⟩ := f₁
  obtain ⟨f₂a, f₂b, f₂c, f₂d, f₂e, f₂f, f₂g, f₂h, f₂i⟩ := f₂
  simp only [SameC7, SameC16] at f₁a f₁b f₂a f₂b
  refine ⟨?_, ?_, ?_, ?_, ?_, ?_, ?_, ?_⟩
  · rw [w₂, w₁, List.append_assoc]
  · rw [m₂, m₁, wireMode_append]
  · rw [levelsFollowModes_append]; exact ⟨l₁, m₁ ▸ l₂⟩
  · rw [s₂, s₁, wireSent_append, List.append_assoc]
  · rw [k₂, k₁, wireGot_append, List.append_assoc]
  · rw [c₂, c₁, wireGot_append, List.drop_drop, List.length_append]
  · rw [repliesFromCard_append]; exact ⟨r₁, by rw [← c₁, ← w₁]; exact r₂⟩
  · refine ⟨f₂a.trans f₁a, ⟨f₂b.1.trans f₁b.1, f₂b.2.trans f₁b.2⟩, f₂c.trans f₁c, f₂d.trans f₁d, f₂e.trans f₁e, f₂f.trans f₁f,
      f₁g.trans f₂g, f₂h.trans f₁h, fun hp => ?_⟩
    rw [hp, List.suffix_nil] at f₁h
    exact (f₂i f₁h).trans (f₁i hp)

/-- The shifter has nothing to do where no byte is queued. -/
theorem shifterTurns_of_empty (n : Nat) (s : State) (h : s.txq = []) : shifterTurns n s = .done () s := by
  induction n with
  | zero => rfl
  | succ n ih =>
    have hs : shift s = .next s := by simp [shift, State.shifted, h]
    simp [shifterTurns, hs, accOp, accThen, ih]

/-- An access where no byte is queued: the turns before it do nothing. -/
theorem access_of_empty (op : State → Result) (s : State) (h : s.txq = []) :
    access op s = accOp (op (s.setPace s.pace.tail)) := by
  cases hp : s.pace with
  | nil =>
    have he : s.setPace [] = s := by rw [← hp]; rfl
    simp [access, pacedTurns, hp, shifterTurns_of_empty _ s h, accThen, he]
  | cons n rest =>
    simp [access, pacedTurns, hp, shifterTurns_of_empty n (s.setPace rest) h, accThen]

/-- An access where one byte is queued, and the receive FIFO is empty, after one turn of the shifter or more: the exchange is
made before it. -/
theorem shifterTurns_of_one (n : Nat) (s : State) (b : Byte) (ht : s.txq = [b]) (hr : s.rxq = []) :
    shifterTurns (n + 1) s = .done () (s.exchangeByte b) := by
  have hs : shift s = .next (s.exchangeByte b) := by simp [shift, State.shifted, ht, rxFull_of_empty s hr]
  simp [shifterTurns, hs, accOp, accThen, shifterTurns_of_empty n (s.exchangeByte b) (by simp [ht])]

/-- What the poll loop of a transfer comes to (R181): as many reads of the empty FIFO as the shifter's turns leave room for, then
the reply. -/
theorem pollRx_of_one (b : Byte) (p : List Nat) (s : State) (hp : s.pace = p) (ht : s.txq = [b]) (hr : s.rxq = []) :
    pollRx p.length s = .done (cardByte s b) { s with
      txq := []
      wire := s.wire ++ [.exchange (csLevel s.mode) b (cardByte s b)]
      script := s.script.tail
      rdata := some (readField (cardByte s b))
      taken := s.taken ++ [cardByte s b]
      draws := s.draws + (p.takeWhile (· == 0)).length
      pace := p.drop ((p.takeWhile (· == 0)).length + 1) } := by
  induction p generalizing s with
  | nil =>
    simp [pollRx, access, pacedTurns, hp, ht, shifterTurns_of_one 0 s b ht hr, accThen, accOp, execSpiRx, State.receive,
      State.exchangeByte, hr, State.setRdata, State.lastWord]
  | cons n rest ih =>
    cases n with
    | zero =>
      have ha : access execSpiRx s =
          .done () ((s.setPace rest).bumpDraws.setRdata (sentinelWord (Config.anyWord s.draws))) := by
        simp [access, pacedTurns, hp, shifterTurns, accThen, accOp, execSpiRx, State.receive, hr, State.setPace]
      have hl := ih ((s.setPace rest).bumpDraws.setRdata (sentinelWord (Config.anyWord s.draws))) rfl ht hr
      simp only [List.length_cons, pollRx, ha, accThen, State.lastWord, setRdata_rdata, Option.getD_some,
        rxIsSentinel_sentinelWord, if_true, hl]
      simp [State.setPace, State.bumpDraws, State.setRdata, cardByte, Nat.add_assoc, Nat.add_comm 1]
    | succ n =>
      have hx := shifterTurns_of_one n (s.setPace rest) b ht hr
      have hnext : execSpiRx ((s.setPace rest).exchangeByte b) = .next { s with
          txq := []
          wire := s.wire ++ [.exchange (csLevel s.mode) b (cardByte s b)]
          script := s.script.tail
          rdata := some (readField (cardByte s b))
          taken := s.taken ++ [cardByte s b]
          pace := rest } := by
        simp [execSpiRx, State.receive, State.exchangeByte, State.setPace, hr, ht, State.setRdata, cardByte]
      have ha : access execSpiRx s = accOp (execSpiRx ((s.setPace rest).exchangeByte b)) := by
        simp [access, pacedTurns, hp, hx, accThen]
      rw [List.length_cons, pollRx, ha, hnext]
      simp [accThen, accOp, State.lastWord, rxIsSentinel_readField]

/-- One transfer from a quiescent unit: one exchange, the reply returned, the unit quiescent again (R181). -/
theorem transfer_of_quiescent (s : State) (b : Byte) (h : Quiescent s) :
    transfer b s = .done (cardByte s b) { s with
      wire := s.wire ++ [.exchange (csLevel s.mode) b (cardByte s b)]
      script := s.script.tail
      rdata := some (readField (cardByte s b))
      sent := s.sent ++ [b]
      taken := s.taken ++ [cardByte s b]
      draws := s.draws + heldReads s.pace
      pace := s.pace.drop (heldReads s.pace + 2) } := by
  have he : (s.setPace s.pace.tail).enqueue b = { s with pace := s.pace.tail, txq := [b], sent := s.sent ++ [b] } := by
    simp [State.enqueue, State.setPace, txFull, h.1, Config.fifoDepth]
  have ha : access (execSpiTx b) s = .done () { s with pace := s.pace.tail, txq := [b], sent := s.sent ++ [b] } := by
    rw [access_of_empty _ s h.1, execSpiTx, he]; rfl
  have hp := pollRx_of_one b s.pace.tail { s with pace := s.pace.tail, txq := [b], sent := s.sent ++ [b] } rfl rfl h.2
  rw [transfer, ha]
  simp only [accThen, hp]
  obtain ⟨ht, hr⟩ := h
  simp [cardByte, heldReads, ht, List.drop_tail]

/-- The result of a transfer from a quiescent unit. -/
structure Transferred (s : State) (b : Byte) (t : State) : Prop where
  eq : transfer b s = .done (cardByte s b) t
  run : WireRun s t [.exchange (csLevel s.mode) b (cardByte s b)]
  quiescent : Quiescent t
  mode : t.mode = s.mode
  cmd : t.cmd = s.cmd
  rdata : t.rdata = some (readField (cardByte s b))

/-- A transfer from a quiescent unit is a run of one exchange. -/
theorem transfer_run (s : State) (b : Byte) (h : Quiescent s) : ∃ t, Transferred s b t := by
  refine ⟨_, transfer_of_quiescent s b h, ?_, h, rfl, rfl, rfl⟩
  refine ⟨rfl, rfl, ⟨rfl, trivial⟩, rfl, rfl, by simp [wireGot], ⟨rfl, trivial⟩, rfl, ⟨rfl, rfl⟩, rfl, rfl, rfl, rfl,
    Nat.le_add_right _ _, List.drop_suffix _ _, ?_⟩
  intro hp; simp [hp, heldReads]

/-- A write of the mode is a run of one `M` event. -/
theorem setMode_run (s : State) (m : CsMode) : WireRun s (s.setMode m) [.mode m] := by
  simp [WireRun, wireMode, LevelsFollowModes, wireSent, wireGot, RepliesFromCard, UnitFrame, SameC7, SameC16]

/-- Turns that do nothing use up `pace` alone. -/
theorem setPace_tail_run (s : State) : WireRun s (s.setPace s.pace.tail) [] := by
  simp [WireRun, wireMode, LevelsFollowModes, wireSent, wireGot, RepliesFromCard, UnitFrame, SameC7, SameC16,
    List.tail_suffix s.pace]

/-- Nothing happened. -/
theorem wireRun_refl (s : State) : WireRun s s [] := by
  simp [WireRun, wireMode, LevelsFollowModes, wireSent, wireGot, RepliesFromCard, UnitFrame, SameC7, SameC16]

/-- `SPI.CS` of a named mode with nothing queued. -/
theorem execSpiCs_csModeBits (s : State) (m : CsMode) (h : s.txq = []) :
    execSpiCs (csModeBits m) s = .next (s.setMode m) := by
  simp [execSpiCs, h]

/-- Accesses that end in HOLD, quiescent, with the events given and nothing recorded of a command. -/
def EndsHeld (s t : State) (ev : List WireEvent) : Prop :=
  WireRun s t ev ∧ Quiescent t ∧ t.mode = .hold ∧ t.cmd = s.cmd

theorem endsHeld_trans {s t u : State} {a b : List WireEvent} (h₁ : EndsHeld s t a) (h₂ : EndsHeld t u b) :
    EndsHeld s u (a ++ b) :=
  ⟨wireRun_trans h₁.1 h₂.1, h₂.2.1, h₂.2.2.1, h₂.2.2.2.trans h₁.2.2.2⟩

/-- One transfer in HOLD. -/
theorem transfer_hold (s : State) (b : Byte) (h : Quiescent s) (hm : s.mode = .hold) :
    ∃ t r, transfer b s = .done r t ∧ EndsHeld s t [.exchange .asserted b r] ∧ t.rdata = some (readField r) := by
  obtain ⟨t, ht⟩ := transfer_run s b h
  have := ht.run
  rw [hm] at this
  exact ⟨t, _, ht.eq, ⟨this, ht.quiescent, ht.mode.trans hm, ht.cmd⟩, ht.rdata⟩

/-- Several transfers in HOLD: one exchange for each byte. -/
theorem transfers_run (bs : List Byte) (s : State) (h : Quiescent s) (hm : s.mode = .hold) :
    ∃ t rs, transfers bs s = .done () t ∧ rs.length = bs.length ∧ EndsHeld s t (exchanges .asserted bs rs) := by
  induction bs generalizing s with
  | nil => exact ⟨s, [], rfl, rfl, wireRun_refl s, h, hm, rfl⟩
  | cons b bs ih =>
    obtain ⟨t, r, he, hh, -⟩ := transfer_hold s b h hm
    obtain ⟨u, rs, he', hl, hh'⟩ := ih t hh.2.1 hh.2.2.1
    exact ⟨u, r :: rs, by simp [transfers, he, accThen, he'], by simp [hl], endsHeld_trans hh hh'⟩

/-- The poll loop in HOLD with `n` polls after the first: the polls are as R183 says. -/
theorem pollResponse_run (n : Nat) (s : State) (h : Quiescent s) (hm : s.mode = .hold) :
    ∃ t r polls, pollResponse n s = .done r t ∧ polls.getLast? = some r ∧ polls.length ≤ n + 1 ∧
      (∀ p ∈ polls.dropLast, isResponse p = false) ∧ (isResponse r = true ∨ polls.length = n + 1) ∧
      EndsHeld s t (exchanges .asserted (List.replicate polls.length idle) polls) ∧ t.rdata = some (readField r) := by
  induction n generalizing s with
  | zero =>
    obtain ⟨t, r, he, hh, hd⟩ := transfer_hold s idle h hm
    exact ⟨t, r, [r], he, rfl, by simp, by simp, .inr rfl, hh, hd⟩
  | succ n ih =>
    obtain ⟨t, r, he, hh, hd⟩ := transfer_hold s idle h hm
    by_cases hr : isResponse r = true
    · exact ⟨t, r, [r], by simp [pollResponse, he, accThen, hr], rfl, by simp, by simp, .inl hr, hh, hd⟩
    · obtain ⟨u, r', polls, he', hlast, hlen, hpre, hend, hh', hd'⟩ := ih t hh.2.1 hh.2.2.1
      have hne : polls ≠ [] := by rintro rfl; simp at hlast
      refine ⟨u, r', r :: polls, by simp [pollResponse, he, accThen, hr, he'], ?_, by simp; omega, ?_,
        hend.imp_right fun h1 => by simp [h1], endsHeld_trans hh hh', hd'⟩
      · rw [List.getLast?_cons, hlast]; rfl
      · intro p hp
        rw [List.dropLast_cons_of_ne_nil hne] at hp
        rcases List.mem_cons.1 hp with rfl | hp
        · simpa using hr
        · exact hpre p hp

/-- `n` idle bytes in HOLD: one exchange for each, the bytes read returned in order. -/
theorem idleBytes_run (n : Nat) (s : State) (h : Quiescent s) (hm : s.mode = .hold) :
    ∃ t rs, idleBytes n s = .done rs t ∧ rs.length = n ∧
      EndsHeld s t (exchanges .asserted (List.replicate n idle) rs) := by
  induction n generalizing s with
  | zero => exact ⟨s, [], rfl, rfl, wireRun_refl s, h, hm, rfl⟩
  | succ n ih =>
    obtain ⟨t, r, he, hh, -⟩ := transfer_hold s idle h hm
    obtain ⟨u, rs, he', hl, hh'⟩ := ih t hh.2.1 hh.2.2.1
    exact ⟨u, r :: rs, by simp [idleBytes, he, accThen, he'], by simp [hl], endsHeld_trans hh hh'⟩

/-- `sd_cmd` from a quiescent unit: six frame bytes and the polls, in HOLD to its end (R183). -/
theorem sdCmd_run (bytes : List Byte) (s : State) (hb : bytes.length = 6) (h : Quiescent s) :
    ∃ t r lead polls, sdCmd bytes s = .done r t ∧ lead.length = 7 ∧ PollsOf polls r ∧
      EndsHeld s t (sdCmdEvents bytes lead polls) ∧ t.rdata = some (readField r) := by
  obtain ⟨t₁, r₁, e₁, h₁, -⟩ := transfer_hold (s.setMode .hold) idle h rfl
  obtain ⟨t₂, rs, e₂, hl, h₂⟩ := transfers_run bytes t₁ h₁.2.1 h₁.2.2.1
  obtain ⟨t₃, r, polls, e₃, hlast, hlen, hpre, hend, h₃, hd⟩ :=
    pollResponse_run (cmdPollMax - 1) t₂ h₂.2.1 h₂.2.2.1
  refine ⟨t₃, r, r₁ :: rs, polls, ?_, by simp [hl, hb], ⟨hlast, hlen, hpre, hend⟩, ?_, hd⟩
  · simp [sdCmd, execSpiCs_csModeBits s .hold h.1, accOp, accThen, e₁, e₂, e₃]
  · have h₀ : EndsHeld s (s.setMode .hold) [.mode .hold] := ⟨setMode_run s .hold, h, rfl, rfl⟩
    have := endsHeld_trans h₀ (endsHeld_trans h₁ (endsHeld_trans h₂ h₃))
    simpa [sdCmdEvents, exchanges, List.zipWith_append, hl] using this

/-- `cmd_end` from a quiescent unit in HOLD (R184). -/
theorem cmdEnd_run (s : State) (h : Quiescent s) (hm : s.mode = .hold) :
    ∃ t last, cmdEnd s = .done () t ∧ WireRun s t (cmdEndEvents last) ∧ t.rdata = some (readField last) ∧
      t.mode = .auto ∧ Quiescent t ∧ t.cmd = s.cmd := by
  obtain ⟨t, r, he, hh, hd⟩ := transfer_hold s idle h hm
  refine ⟨(t.setPace t.pace.tail).setMode .auto, r, ?_, ?_, hd, rfl, hh.2.1, hh.2.2.2⟩
  · simp [cmdEnd, he, accThen, access_of_empty _ t hh.2.1.1,
      execSpiCs_csModeBits (t.setPace t.pace.tail) .auto hh.2.1.1, accOp]
  · exact wireRun_trans hh.1 (wireRun_trans (setPace_tail_run t) (setMode_run _ .auto))

/-- A unit whose chip select is released at its end, from a quiescent unit: it is done, with its result (R183, R184, R99). -/
theorem unitRun_done (bytes : List Byte) (n : Nat) (verdict : Byte → List Byte → Option HostCode) (s : State)
    (hb : bytes.length = 6) (h : Quiescent s) :
    ∃ r e t, unitRun bytes n verdict s = .done ⟨r, e, verdict r e⟩ t ∧ UnitDone bytes n s t r e := by
  obtain ⟨t₁, r, lead, polls, e₁, hl, hp, h₁, -⟩ := sdCmd_run bytes s hb h
  obtain ⟨t₂, rs, e₂, hn, h₂⟩ := idleBytes_run n t₁ h₁.2.1 h₁.2.2.1
  obtain ⟨t₃, last, e₃, hw, hd, hm, hq, -⟩ := cmdEnd_run t₂ h₂.2.1 h₂.2.2.1
  refine ⟨r, rs, t₃, by simp [unitRun, e₁, e₂, e₃, accThen], lead, polls, last, hl, hp, hn, ?_, hd, hm, hq⟩
  exact wireRun_trans (wireRun_trans h₁.1 h₂.1) hw

/-- The unit of CMD18 from a quiescent unit: held on a response 00, ended on any other (R195, R226). -/
theorem cmd18Run_done (bytes : List Byte) (s : State) (hb : bytes.length = 6) (h : Quiescent s) :
    ∃ r lead polls t, lead.length = 7 ∧ PollsOf polls r ∧ Quiescent t ∧
      ((r = 0x00 ∧ cmd18Run bytes s = .done ⟨r, [], none⟩ t ∧ WireRun s t (sdCmdEvents bytes lead polls) ∧
          t.mode = .hold ∧ t.rdata = some 0) ∨
        (r ≠ 0x00 ∧ cmd18Run bytes s = .done ⟨r, [], some .cmd18Failure⟩ t ∧ ∃ last,
          WireRun s t (sdCmdEvents bytes lead polls ++ cmdEndEvents last) ∧ t.mode = .auto ∧
          t.rdata = some (readField last))) := by
  obtain ⟨t₁, r, lead, polls, e₁, hl, hp, h₁, hd⟩ := sdCmd_run bytes s hb h
  by_cases hr : r = 0x00
  · refine ⟨r, lead, polls, t₁, hl, hp, h₁.2.1, .inl ⟨hr, ?_, h₁.1, h₁.2.2.1, ?_⟩⟩
    · simp only [cmd18Run, e₁, accThen, if_pos hr]
    · rw [hd, hr]; rfl
  · obtain ⟨t₂, last, e₂, hw, hd₂, hm, hq, -⟩ := cmdEnd_run t₁ h₁.2.1 h₁.2.2.1
    refine ⟨r, lead, polls, t₂, hl, hp, hq, .inr ⟨hr, ?_, last, wireRun_trans h₁.1 hw, hm, hd₂⟩⟩
    simp only [cmd18Run, e₁, accThen, if_neg hr, e₂]

/-- A unit that is done from a quiescent state is what its instruction does. -/
theorem commandUnit_done {unit : State → Accessed CmdResult} {s t : State} {c : CmdResult} (h : unit s = .done c t) :
    commandUnit unit s = .next (t.setCmd c) := by
  unfold commandUnit; split <;> simp [h]

/-- A command unit runs, or is refused where one of its accesses is: the first branch of `commandUnit` says nothing else for a
unit that is not refused when quiescent. -/
theorem commandUnit_eq {unit : State → Accessed CmdResult} {s : State} (h : Quiescent s → ∃ c t, unit s = .done c t) :
    commandUnit unit s = (match unit s with
      | .done c t => .next (t.setCmd c)
      | .refused r => .refused r) := by
  unfold commandUnit
  split
  · rename_i hq
    simp only [Bool.and_eq_true, List.isEmpty_iff] at hq
    obtain ⟨c, t, hu⟩ := h hq
    simp [hu]
  · rfl

/-- With a byte queued the first access of a unit is refused (U7). -/
theorem sdCmd_of_pending (bytes : List Byte) (s : State) (h : s.txq ≠ []) : sdCmd bytes s = .refused .writeWhileSending := by
  simp [sdCmd, execSpiCs, h, accOp, accThen]

end Sys2Proof.Laws
end

