-- ==== Sys2Proof/Laws/Keeps.lean ====
section
/-!
SUPPORT. What every step keeps: a property of states that each update keeps is kept by every access of the host, every command
unit, every instruction and every step.
-/
namespace Sys2Proof.Laws

open Sys2Proof.Machine

/-- The property holds of the state that accesses come to. -/
def Keeps (P : State → Prop) {α : Type} (x : Accessed α) : Prop :=
  match x with
  | .done _ t => P t
  | .refused _ => True

theorem keeps_then {P : State → Prop} {α β : Type} {x : Accessed α} {f : α → State → Accessed β} (h : Keeps P x)
    (hf : ∀ a t, P t → Keeps P (f a t)) : Keeps P (accThen x f) := by
  cases x with
  | done a t => exact hf a t h
  | refused r => trivial

/-- The updates that the accesses of a command unit are made of keep the property. -/
structure KeptByAccesses (P : State → Prop) : Prop where
  pace : ∀ s p, P s → P (s.setPace p)
  cmd : ∀ s c, P s → P (s.setCmd c)
  mode : ∀ s m, s.txq = [] → P s → P (s.setMode m)
  enqueue : ∀ s b, P s → P (s.enqueue b)
  receive : ∀ s, P s → P s.receive
  shifted : ∀ s, s.txq = [] ∨ rxFull s = false → P s → P s.shifted

/-- The updates that instructions and steps are made of keep the property. -/
structure KeptByUpdates (P : State → Prop) : Prop extends KeptByAccesses P where
  agenda : ∀ s rest, P s → P (s.setAgenda rest)
  rdata : ∀ s w, P s → P (s.setRdata w)
  draws : ∀ s, P s → P s.bumpDraws
  meetU1 : ∀ s, P s → P s.meetU1
  rem : ∀ s v, P s → P (s.setRem v)
  acc : ∀ s v, P s → P (s.setAcc v)
  mismatch : ∀ s v, P s → P (s.setMismatch v)
  div : ∀ s d, P s → P (s.setDiv d)

/-- `SPI.CS` answers a next state only with nothing queued, and then writes a mode (R156). -/
theorem execSpiCs_next {m : BitVec 2} {s t : State} (h : execSpiCs m s = .next t) :
    s.txq = [] ∧ ∃ mode, csModeOfBits m = some mode ∧ t = s.setMode mode := by
  unfold execSpiCs at h
  split at h
  · cases h
  · rename_i mode hm
    split at h
    · cases h; exact ⟨by simp_all, mode, hm, rfl⟩
    · cases h

/-- `SPI.DIV` answers a next state only with nothing queued (R152). -/
theorem execSpiDiv_next {d : BitVec 12} {s t : State} (h : execSpiDiv d s = .next t) : s.txq = [] ∧ t = s.setDiv d := by
  unfold execSpiDiv at h
  split at h
  · cases h; exact ⟨by simp_all, rfl⟩
  · cases h

/-- A turn of the shifter that answers a next state. -/
theorem shift_next {s t : State} (h : shift s = .next t) : t = s.shifted ∧ (s.txq = [] ∨ rxFull s = false) := by
  rcases shift_cases s with ⟨a, b⟩ | ⟨a, -⟩ <;> rw [a] at h <;> cases h
  exact ⟨rfl, b⟩

theorem accOp_keeps {P : State → Prop} {o : Result} (h : ∀ t, o = .next t → P t) : Keeps P (accOp o) := by
  cases o with
  | next t => exact h t rfl
  | fault r => cases r
  | refused r => trivial

section Accesses

variable {P : State → Prop} (hk : KeptByAccesses P)
include hk

theorem shifterTurns_keeps (n : Nat) (s : State) (h : P s) : Keeps P (shifterTurns n s) := by
  induction n generalizing s with
  | zero => exact h
  | succ n ih =>
    refine keeps_then (accOp_keeps fun t ht => ?_) fun _ t ht => ih t ht
    obtain ⟨rfl, hs⟩ := shift_next ht
    exact hk.shifted s hs h

theorem access_keeps {op : State → Result} (hop : ∀ s t, op s = .next t → P s → P t) (s : State) (h : P s) :
    Keeps P (access op s) := by
  refine keeps_then ?_ fun _ t ht => accOp_keeps fun u hu => hop t u hu ht
  unfold pacedTurns
  split
  · exact shifterTurns_keeps hk _ _ h
  · exact shifterTurns_keeps hk _ _ (hk.pace s _ h)

theorem accessRx_keeps (s : State) (h : P s) : Keeps P (access execSpiRx s) :=
  access_keeps hk (fun s _ ht hs => by cases ht; exact hk.receive s hs) s h

theorem accessCs_keeps (m : BitVec 2) (s : State) (h : P s) : Keeps P (access (execSpiCs m) s) :=
  access_keeps hk (fun s _ ht hs => by
    obtain ⟨hq, mode, -, rfl⟩ := execSpiCs_next ht
    exact hk.mode s mode hq hs) s h

theorem pollRx_keeps (n : Nat) (s : State) (h : P s) : Keeps P (pollRx n s) := by
  induction n generalizing s with
  | zero => exact keeps_then (accessRx_keeps hk s h) fun _ _ ht => ht
  | succ n ih =>
    refine keeps_then (accessRx_keeps hk s h) fun _ t ht => ?_
    split
    · exact ih t ht
    · exact ht

theorem transfer_keeps (b : Byte) (s : State) (h : P s) : Keeps P (transfer b s) :=
  keeps_then (access_keeps hk (fun s _ ht hs => by cases ht; exact hk.enqueue s b hs) s h)
    fun _ t ht => pollRx_keeps hk _ t ht

theorem transfers_keeps (bs : List Byte) (s : State) (h : P s) : Keeps P (transfers bs s) := by
  induction bs generalizing s with
  | nil => exact h
  | cons b bs ih => exact keeps_then (transfer_keeps hk b s h) fun _ t ht => ih t ht

theorem idleBytes_keeps (n : Nat) (s : State) (h : P s) : Keeps P (idleBytes n s) := by
  induction n generalizing s with
  | zero => exact h
  | succ n ih => exact keeps_then (transfer_keeps hk idle s h) fun _ t ht => keeps_then (ih t ht) fun _ _ hu => hu

theorem pollResponse_keeps (n : Nat) (s : State) (h : P s) : Keeps P (pollResponse n s) := by
  induction n generalizing s with
  | zero => exact transfer_keeps hk idle s h
  | succ n ih =>
    refine keeps_then (transfer_keeps hk idle s h) fun _ t ht => ?_
    split
    · exact ht
    · exact ih t ht

theorem sdCmd_keeps (bytes : List Byte) (s : State) (h : P s) : Keeps P (sdCmd bytes s) := by
  refine keeps_then (accOp_keeps fun t ht => ?_) fun _ t ht => keeps_then (transfer_keeps hk idle t ht) fun _ t ht =>
    keeps_then (transfers_keeps hk bytes t ht) fun _ t ht => pollResponse_keeps hk _ t ht
  obtain ⟨hq, mode, -, rfl⟩ := execSpiCs_next ht
  exact hk.mode s mode hq h

theorem cmdEnd_keeps (s : State) (h : P s) : Keeps P (cmdEnd s) :=
  keeps_then (transfer_keeps hk idle s h) fun _ t ht => accessCs_keeps hk _ t ht

theorem unitRun_keeps (bytes : List Byte) (n : Nat) (verdict : Byte → List Byte → Option HostCode) (s : State) (h : P s) :
    Keeps P (unitRun bytes n verdict s) :=
  keeps_then (sdCmd_keeps hk bytes s h) fun _ t ht => keeps_then (idleBytes_keeps hk n t ht) fun _ t ht =>
    keeps_then (cmdEnd_keeps hk t ht) fun _ _ ht => ht

theorem cmd18Run_keeps (bytes : List Byte) (s : State) (h : P s) : Keeps P (cmd18Run bytes s) := by
  refine keeps_then (sdCmd_keeps hk bytes s h) fun r t ht => ?_
  split
  · exact ht
  · exact keeps_then (cmdEnd_keeps hk t ht) fun _ _ ht => ht

theorem commandUnit_keeps {unit : State → Accessed CmdResult} {s t : State} (hu : Keeps P (unit s))
    (he : commandUnit unit s = .next t) (h : P s) : P t := by
  unfold commandUnit at he
  cases hx : unit s with
  | done c u =>
    rw [hx] at he hu
    split at he <;> cases he <;> exact hk.cmd u c hu
  | refused r =>
    rw [hx] at he
    split at he <;> cases he
    exact h

/-- A command frame keeps what its accesses keep. -/
theorem execFrame_keeps {i : Instr} {s t : State} (hi : isFrame i = true) (he : exec i s = .next t) (h : P s) : P t := by
  cases i <;> simp only [isFrame, Bool.false_eq_true] at hi
  case cmd18 => exact commandUnit_keeps hk (cmd18Run_keeps hk _ s h) he h
  all_goals exact commandUnit_keeps hk (unitRun_keeps hk _ _ _ s h) he h

end Accesses

section Updates

variable {P : State → Prop} (hk : KeptByUpdates P)
include hk

theorem afterRead_keeps {α : Type} (s : State) (reg : Option α) (h : P s) : P (s.afterRead reg) := by
  rcases afterRead_cases s reg with ⟨-, e⟩ | ⟨-, e⟩ <;> rw [e]
  · exact h
  · exact hk.meetU1 _ (hk.draws s h)

/-- Every instruction keeps what the updates keep. -/
theorem exec_keeps {i : Instr} {s t : State} (he : exec i s = .next t) (h : P s) : P t := by
  by_cases hf : isFrame i = true
  · exact execFrame_keeps hk.toKeptByAccesses hf he h
  cases i <;> simp only [isFrame, not_true] at hf
  case spiDiv d => obtain ⟨-, rfl⟩ := execSpiDiv_next he; exact hk.div s d h
  case spiCs m => obtain ⟨hq, mode, -, rfl⟩ := execSpiCs_next he; exact hk.mode s mode hq h
  case spiTx b => cases he; exact hk.enqueue s b h
  case spiRx => cases he; exact hk.receive s h
  case c7Ld v => cases he; exact hk.rem s v h
  case c16Ld v => cases he; exact hk.acc s v h
  case c7Fold b =>
    cases he
    rcases foldRem_cases s b with ⟨r, -, e⟩ | ⟨-, e⟩ <;> rw [e]
    · exact hk.rem s _ h
    · exact hk.meetU1 s h
  case c16Fold b =>
    cases he
    rcases foldAcc_cases s b with ⟨r, -, e⟩ | ⟨-, e⟩ <;> rw [e]
    · exact hk.acc s _ h
    · exact hk.meetU1 s h
  case c16Chk e => cases he; exact hk.mismatch _ _ (afterRead_keeps hk s _ h)
  case spiRddiv => cases he; exact hk.rdata s _ h
  case spiRdcs => cases he; exact hk.rdata s _ h
  case spiTxst => cases he; exact hk.rdata s _ h
  all_goals cases he; exact hk.rdata _ _ (afterRead_keeps hk s _ h)

/-- Every step keeps what the updates keep. -/
theorem step_keeps {s t : State} (he : step s = .next t) (h : P s) : P t := by
  rcases step_cases s with ⟨-, e⟩ | ⟨r, -, e⟩ | ⟨it, r, i, -, -, e⟩ | ⟨it, r, x, -, -, e⟩ <;> rw [e] at he
  · obtain ⟨rfl, hs⟩ := shift_next he; exact hk.shifted s hs h
  · obtain ⟨rfl, hs⟩ := shift_next he; exact hk.shifted _ hs (hk.agenda s r h)
  · exact exec_keeps hk he (hk.agenda s r h)
  · cases he

end Updates

end Sys2Proof.Laws
end

