-- ==== Sys2Proof/Laws/PerInstr.lean ====
section
/-!
SUPPORT. Laws stated once for each instruction: the word the encoder writes is a word of the instruction's row of
spec/opcode_table.json.
-/
namespace Sys2Proof.Laws.EncodeMatchesTable

/-- The "match" column of spec/opcode_table.json. -/
def tableMatch : Instr → HostWord
  | .spiDiv _ => 0x40000000000
  | .spiRddiv => 0x00000000000
  | .spiCs _ => 0x41800000000
  | .spiRdcs => 0x01800000000
  | .spiTx _ => 0x44800000000
  | .spiTxst => 0x04800000000
  | .spiRx => 0x04C00000000
  | .c7Ld _ => 0x50000000000
  | .c7Rd => 0x10000000000
  | .c7Fold _ => 0x50400000000
  | .c7Fin => 0x10800000000
  | .c16Ld _ => 0x60000000000
  | .c16Rd => 0x20000000000
  | .c16Fold _ => 0x60400000000
  | .c16Chk _ => 0x60800000000
  | .c16Stat => 0x20C00000000
  | .cmd0 => 0x400000000095
  | .cmd8 => 0x48000001AA87
  | .cmd55 => 0x770000000065
  | .acmd41 => 0x694000000077
  | .cmd58 => 0x7A00000000FD
  | .cmd16 => 0x500000020015
  | .cmd18 _ _ => 0x520000000001
  | .cmd12 => 0x4C0000000061

/-- The "mask" column of spec/opcode_table.json; the bits above a 43-bit transaction word are fixed zeros of a host word. -/
def tableMask : Instr → HostWord
  | .spiDiv _ => 0xFFFF00000000
  | .spiRddiv => 0xFFFF00000000
  | .spiCs _ => 0xFFFF00000000
  | .spiRdcs => 0xFFFF00000000
  | .spiTx _ => 0xFFFF00000000
  | .spiTxst => 0xFFFF00000000
  | .spiRx => 0xFFFF00000000
  | .c7Ld _ => 0xFFFF00000000
  | .c7Rd => 0xFFFF00000000
  | .c7Fold _ => 0xFFFF00000000
  | .c7Fin => 0xFFFF00000000
  | .c16Ld _ => 0xFFFF00000000
  | .c16Rd => 0xFFFF00000000
  | .c16Fold _ => 0xFFFF00000000
  | .c16Chk _ => 0xFFFF00000000
  | .c16Stat => 0xFFFF00000000
  | .cmd0 => 0xFFFFFFFFFFFF
  | .cmd8 => 0xFFFFFFFFFFFF
  | .cmd55 => 0xFFFFFFFFFFFF
  | .acmd41 => 0xFFFFFFFFFFFF
  | .cmd58 => 0xFFFFFFFFFFFF
  | .cmd16 => 0xFFFFFFFFFFFF
  | .cmd18 _ _ => 0xFF0000000001
  | .cmd12 => 0xFFFFFFFFFFFF

/-- The encoded word agrees with the row's match on every bit of the row's mask. -/
def Statement (i : Instr) : Prop := encode i &&& tableMask i = tableMatch i

theorem spiDiv (d : BitVec 12) : Statement (.spiDiv d) :=
  (regWord_masked ..).trans (by simp only [tableMatch]; decide)

theorem spiRddiv : Statement .spiRddiv := by unfold Statement; decide

theorem spiCs (m : BitVec 2) : Statement (.spiCs m) :=
  (regWord_masked ..).trans (by simp only [tableMatch]; decide)

theorem spiRdcs : Statement .spiRdcs := by unfold Statement; decide

theorem spiTx (b : BitVec 8) : Statement (.spiTx b) :=
  (regWord_masked ..).trans (by simp only [tableMatch]; decide)

theorem spiTxst : Statement .spiTxst := by unfold Statement; decide

theorem spiRx : Statement .spiRx := by unfold Statement; decide

theorem c7Ld (v : BitVec 7) : Statement (.c7Ld v) :=
  (regWord_masked ..).trans (by simp only [tableMatch]; decide)

theorem c7Rd : Statement .c7Rd := by unfold Statement; decide

theorem c7Fold (b : BitVec 8) : Statement (.c7Fold b) :=
  (regWord_masked ..).trans (by simp only [tableMatch]; decide)

theorem c7Fin : Statement .c7Fin := by unfold Statement; decide

theorem c16Ld (v : BitVec 16) : Statement (.c16Ld v) :=
  (regWord_masked ..).trans (by simp only [tableMatch]; decide)

theorem c16Rd : Statement .c16Rd := by unfold Statement; decide

theorem c16Fold (b : BitVec 8) : Statement (.c16Fold b) :=
  (regWord_masked ..).trans (by simp only [tableMatch]; decide)

theorem c16Chk (e : BitVec 16) : Statement (.c16Chk e) :=
  (regWord_masked ..).trans (by simp only [tableMatch]; decide)

theorem c16Stat : Statement .c16Stat := by unfold Statement; decide

theorem cmd0 : Statement .cmd0 := by unfold Statement; decide

theorem cmd8 : Statement .cmd8 := by unfold Statement; decide

theorem cmd55 : Statement .cmd55 := by unfold Statement; decide

theorem acmd41 : Statement .acmd41 := by unfold Statement; decide

theorem cmd58 : Statement .cmd58 := by unfold Statement; decide

theorem cmd16 : Statement .cmd16 := by unfold Statement; decide

theorem cmd18 (lba : BitVec 32) (crc : BitVec 7) : Statement (.cmd18 lba crc) :=
  (frameWord_masked ..).trans (by simp only [tableMatch]; decide)

theorem cmd12 : Statement .cmd12 := by unfold Statement; decide

end Sys2Proof.Laws.EncodeMatchesTable
end

