-- ==== Sys2Proof/Laws/Sequences.lean ====
section
/-!
SUPPORT. What the parts of a host sequence come to: how a sequence that ends was put together, and its accesses from a quiescent
unit.
-/
namespace Sys2Proof.Laws

open Sys2Proof.Machine

/-- A sequence that ends: its first part ended, and then its second. -/
theorem seqThen_done {α β : Type} {x : Ran α} {f : α → State → Ran β} {b : β} {t : State} (h : seqThen x f = .done b t) :
    ∃ a u, x = .done a u ∧ f a u = .done b t := by
  cases x with
  | done a u => exact ⟨a, u, rfl, h⟩
  | refused r => cases h
  | waiting => cases h

@[simp] theorem seqThen_of_done {α β : Type} (a : α) (s : State) (f : α → State → Ran β) :
    seqThen (.done a s) f = f a s := rfl

/-- An instruction of a sequence where no byte is queued: `exec` of it, one element of `pace` used up. -/
theorem seqOp_of_empty (i : Instr) (s : State) (h : s.txq = []) :
    seqOp i s = seqOf (accOp (exec i (s.setPace s.pace.tail))) := by
  rw [seqOp, access_of_empty _ s h]

/-- An instruction that has a next state. -/
theorem seqOp_of_next {i : Instr} {s t : State} (h : s.txq = []) (he : exec i (s.setPace s.pace.tail) = .next t) :
    seqOp i s = .done () t := by
  rw [seqOp_of_empty i s h, he]; rfl

/-- One idle byte in HOLD (R182). -/
theorem seqIdle_hold (s : State) (h : Quiescent s) (hm : s.mode = .hold) :
    ∃ t r, seqIdle s = .done r t ∧ EndsHeld s t [.exchange .asserted idle r] := by
  obtain ⟨t, r, he, hh, -⟩ := transfer_hold s idle h hm
  exact ⟨t, r, by rw [seqIdle, he]; rfl, hh⟩

/-- Data bytes that the card has ready are read and folded in their order (R197). -/
theorem readFolding_of_script (d rest : List Byte) (s : State) (a : BitVec 16) (h : Quiescent s)
    (hs : s.script = d ++ rest) (ha : s.c16Acc = some a) :
    ∃ t, readFolding d.length s = .done d t ∧ Quiescent t ∧ t.script = rest ∧ t.c16Acc = some (d.foldl crc16 a)
      ∧ t.mode = s.mode := by
  induction d generalizing s a with
  | nil => exact ⟨s, rfl, h, hs, ha, rfl⟩
  | cons b d ih =>
    obtain ⟨t, ht⟩ := transfer_run s idle h
    have hb : cardByte s idle = b := by rw [cardByte, hs]; rfl
    have hi : seqIdle s = .done b t := by rw [seqIdle, ht.eq, hb]; rfl
    have hacc : t.c16Acc = some a := ht.run.2.2.2.2.2.2.2.2.1.1.trans ha
    have hf : seqOp (.c16Fold b) t = .done () ((t.setPace t.pace.tail).setAcc (crc16 a b)) := by
      refine seqOp_of_next ht.quiescent.1 ?_
      simp [exec, execC16Fold, State.foldAcc, hacc]
    obtain ⟨u, e, hq, hr, hu, hm⟩ := ih ((t.setPace t.pace.tail).setAcc (crc16 a b)) (crc16 a b) ht.quiescent
      (by rw [setAcc_script, setPace_script, ht.run.2.2.2.2.2.1, hs]; simp [wireGot]) rfl
    refine ⟨u, ?_, hq, hr, hu, hm.trans ht.mode⟩
    simp [readFolding, hi, hf, e]

end Sys2Proof.Laws
end

