-- ==== Sys2Proof/Tests/Slice0.lean ====
section
/-!
SUPPORT. Tests: expected values are those of spec/95_test_vectors.md, whose number stands beside each, or of the rule named.
After them a state that meets the hypotheses of each statement of the certificate.
-/
namespace Sys2Proof.Tests

open Sys2Proof Sys2Proof.Machine

/-! What a test looks at: one field after one instruction. -/

/-- The machine after reset with one field of it replaced by what a test needs, run for one instruction. -/
def after (i : Instr) (s : State) : Option State := nextOf (exec i s)

/-- The word an instruction returns. -/
def returned (i : Instr) (s : State) : Option Word := (after i s).bind (·.rdata)

/-- The reason an instruction is refused. -/
def refusal (o : Result) : Option Refusal :=
  match o with
  | .refused r => some r
  | _ => none

/-- Remainder `r` in the C7 unit. -/
def withRem (r : BitVec 7) : State := State.reset.setRem r

/-- Accumulator `a` in the C16 unit. -/
def withAcc (a : BitVec 16) : State := State.reset.setAcc a

/-- Mode `m`, transmit queue `tx`, receive queue `rx` in the SPI unit, and a card that replies `script`. -/
def spi (m : CsMode) (tx rx script : List Byte) : State :=
  { State.reset with mode := m, txq := tx, rxq := rx, script := script }

/-! WellFormed: what each check refuses. -/

theorem test_wellFormed_refuses_reserved_mode : (Instr.spiCs 1).wellFormed = false := by decide

theorem test_wellFormed_accepts_named_modes :
    (Instr.spiCs 0).wellFormed ∧ (Instr.spiCs 2).wellFormed ∧ (Instr.spiCs 3).wellFormed := by decide

/-- V52 with its CRC off by one. -/
theorem test_wellFormed_refuses_wrong_crc : (Instr.cmd18 0x12345678 0x75).wellFormed = false := by decide +kernel

/-- V47, V52, V53. -/
theorem test_wellFormed_accepts_right_crc :
    (Instr.cmd18 0x00000000 0x70).wellFormed ∧ (Instr.cmd18 0x12345678 0x74).wellFormed
      ∧ (Instr.cmd18 0xFFFFFFFF 0x65).wellFormed := by decide +kernel

/-! Decoding, one word for each instruction: `we` in bit 42, the unit in bits 41 and 40, the offset in bits 39 to 32 (R80). -/

/-- V166: we 1, unit 00, offset 00. -/
theorem test_decode_spiDiv : decode 0b00000_1_00_00000000_00000000000000000000000000000011 = .ok (.spiDiv 3) := by decide

/-- R100: we 0, unit 00, offset 00. -/
theorem test_decode_spiRddiv : decode 0b00000_0_00_00000000_00000000000000000000000000000000 = .ok .spiRddiv := by decide

/-- V164: we 1, unit 00, offset 18. -/
theorem test_decode_spiCs : decode 0b00000_1_00_00011000_00000000000000000000000000000010 = .ok (.spiCs 2) := by decide

/-- R100: we 0, unit 00, offset 18. -/
theorem test_decode_spiRdcs : decode 0b00000_0_00_00011000_00000000000000000000000000000000 = .ok .spiRdcs := by decide

/-- V161: we 1, unit 00, offset 48, ignored write data set. -/
theorem test_decode_spiTx : decode 0b00000_1_00_01001000_11111111111111111111111101000000 = .ok (.spiTx 0x40) := by decide

/-- R100: we 0, unit 00, offset 48. -/
theorem test_decode_spiTxst : decode 0b00000_0_00_01001000_00000000000000000000000000000000 = .ok .spiTxst := by decide

/-- V163: we 0, unit 00, offset 4C, write data DEADBEEF ignored. -/
theorem test_decode_spiRx : decode 0b00000_0_00_01001100_11011110101011011011111011101111 = .ok .spiRx := by decide

/-- V167, with operand 4A: we 1, unit 01, offset 00. -/
theorem test_decode_c7Ld : decode 0b00000_1_01_00000000_00000000000000000000000001001010 = .ok (.c7Ld 0x4A) := by decide

/-- R100: we 0, unit 01, offset 00. -/
theorem test_decode_c7Rd : decode 0b00000_0_01_00000000_00000000000000000000000000000000 = .ok .c7Rd := by decide

/-- V168: we 1, unit 01, offset 04. -/
theorem test_decode_c7Fold : decode 0b00000_1_01_00000100_00000000000000000000000001000000 = .ok (.c7Fold 0x40) := by decide

/-- V169: we 0, unit 01, offset 08. -/
theorem test_decode_c7Fin : decode 0b00000_0_01_00001000_00000000000000000000000000000000 = .ok .c7Fin := by decide

/-- V111: we 1, unit 10, offset 00, write data ABCD1234. -/
theorem test_decode_c16Ld : decode 0b00000_1_10_00000000_10101011110011010001001000110100 = .ok (.c16Ld 0x1234) := by decide

/-- R100: we 0, unit 10, offset 00. -/
theorem test_decode_c16Rd : decode 0b00000_0_10_00000000_00000000000000000000000000000000 = .ok .c16Rd := by decide

/-- V170: we 1, unit 10, offset 04. -/
theorem test_decode_c16Fold : decode 0b00000_1_10_00000100_00000000000000000000000000000001 = .ok (.c16Fold 1) := by decide

/-- V171: we 1, unit 10, offset 08. -/
theorem test_decode_c16Chk : decode 0b00000_1_10_00001000_00000000000000000111111110100001 = .ok (.c16Chk 0x7FA1) := by decide

/-- V172: we 0, unit 10, offset 0C. -/
theorem test_decode_c16Stat : decode 0b00000_0_10_00001100_00000000000000000000000000000000 = .ok .c16Stat := by decide

/-- V190: start and transmission bits 01, index 000000, argument, CRC7 4A, end bit 1 (R92). -/
theorem test_decode_cmd0 : decode 0b01_000000_00000000000000000000000000000000_1001010_1 = .ok .cmd0 := by decide

/-- V191. -/
theorem test_decode_cmd8 : decode 0b01_001000_00000000000000000000000110101010_1000011_1 = .ok .cmd8 := by decide

/-- V42. -/
theorem test_decode_cmd55 : decode 0b01_110111_00000000000000000000000000000000_0110010_1 = .ok .cmd55 := by decide

/-- V192. -/
theorem test_decode_acmd41 : decode 0b01_101001_01000000000000000000000000000000_0111011_1 = .ok .acmd41 := by decide

/-- V44. -/
theorem test_decode_cmd58 : decode 0b01_111010_00000000000000000000000000000000_1111110_1 = .ok .cmd58 := by decide

/-- V45. -/
theorem test_decode_cmd16 : decode 0b01_010000_00000000000000000000001000000000_0001010_1 = .ok .cmd16 := by decide

/-- V193. -/
theorem test_decode_cmd18 :
    decode 0b01_010010_00010010001101000101011001111000_1110100_1 = .ok (.cmd18 0x12345678 0x74) := by decide

/-- V46. -/
theorem test_decode_cmd12 : decode 0b01_001100_00000000000000000000000000000000_0110000_1 = .ok .cmd12 := by decide

/-- V173 to V176. -/
theorem test_decode_reserved_direction :
    decode 0x44C00000000 = .error .rxfifoWrite ∧ decode 0x50800000000 = .error .readOnly
      ∧ decode 0x10400000000 = .error .writeOnly ∧ decode 0x20800000000 = .error .writeOnly := by decide

/-- V177 to V180. -/
theorem test_decode_reserved_place :
    decode 0x70000000000 = .error .unitThree ∧ decode 0x00400000000 = .error .noRegister
      ∧ decode 0x44900000040 = .error .misalignedOffset ∧ decode 0x21000000000 = .error .noRegister := by decide

/-- V194, an index of no row (V54), and a word with transmission bit 0 (V195's case above bit 43). -/
theorem test_decode_no_frame :
    decode 0x400000000094 = .error .unknownFrame ∧ decode 0x510000000055 = .error .unknownFrame
      ∧ decode 0x080000000000 = .error .notAWord := by decide

/-- The host's question, at the table's widths: 43 bits for a transaction word, in whole bytes 48. -/
theorem test_decodeTableWord :
    decodeTableWord 48 0x44800000040 = some (.spiTx 0x40) ∧ decodeTableWord 48 0x400000000095 = some .cmd0
      ∧ decodeTableWord 48 0x70000000000 = none := by decide

/-- The very next step runs the word placed (R62). -/
theorem test_withFetchWord_runs :
    step (State.reset.withFetchWord 48 0x60000001234) = exec (.c16Ld 0x1234) State.reset := by rfl

/-! The CRC functions. -/

/-- V20 to V31. -/
theorem test_crc7_folds :
    crc7 0x00 0x00 = 0x00 ∧ crc7 0x00 0x01 = 0x09 ∧ crc7 0x00 0x40 = 0x64 ∧ crc7 0x00 0x80 = 0x41 ∧ crc7 0x00 0xFF = 0x79
      ∧ crc7 0x7F 0x00 = 0x70 ∧ crc7 0x7F 0xFF = 0x09 ∧ crc7 0x40 0x00 = 0x41 ∧ crc7 0x01 0x00 = 0x12
      ∧ crc7 0x3B 0x69 = 0x6E ∧ crc7 0x55 0xAA = 0x00 := by decide

/-- V33, V40, V52, V55. -/
theorem test_crc7_frames :
    crc7seq [0x31, 0x32, 0x33, 0x34, 0x35, 0x36, 0x37, 0x38, 0x39] = 0x75 ∧ frame 0 0 = [0x40, 0, 0, 0, 0, 0x95]
      ∧ frame 18 0x12345678 = [0x52, 0x12, 0x34, 0x56, 0x78, 0xE9]
      ∧ frame 63 0xFFFFFFFF = [0x7F, 0xFF, 0xFF, 0xFF, 0xFF, 0x19] := by decide +kernel

/-- V80 to V90. -/
theorem test_crc16_folds :
    crc16 0x0000 0x01 = 0x1021 ∧ crc16 0x0000 0x80 = 0x9188 ∧ crc16 0x0000 0xFF = 0x1EF0 ∧ crc16 0xFFFF 0x00 = 0xE1F0
      ∧ crc16 0xFFFF 0xFF = 0xFF00 ∧ crc16 0x1234 0x56 = 0x3C40 ∧ crc16 0x8000 0x00 = 0x9188 ∧ crc16 0x0001 0x00 = 0x0100
      ∧ crc16 0x0100 0x01 = 0x0000 := by decide

/-- V91, V95, V97, V98, V212. -/
theorem test_crc16_sequences :
    crc16seq [0x31, 0x32, 0x33, 0x34, 0x35, 0x36, 0x37, 0x38, 0x39] = 0x31C3
      ∧ crc16seq [0xDE, 0xAD, 0xBE, 0xEF] = 0xC457 ∧ crc16seq [0x12, 0x34, 0x13, 0xC6] = 0x0000
      ∧ crc16seq [0x12, 0x34, 0xC6, 0x13] = 0x710A ∧ expectedCrc 0x7F 0xA1 = 0x7FA1 := by decide +kernel

/-! The C7 unit. -/

/-- V60, V61. -/
theorem test_c7Ld :
    (after (.c7Ld 0) State.reset).map (·.c7Rem) = some (some 0x00)
      ∧ (after (.c7Ld 0x7F) (withRem 0x12)).map (·.c7Rem) = some (some 0x7F) := by decide

/-- V64: the remainder is returned, and stays. -/
theorem test_c7Rd :
    returned .c7Rd (withRem 0x4A) = some 0x0000004A ∧ (after .c7Rd (withRem 0x4A)).map (·.c7Rem) = some (some 0x4A) := by decide

/-- V62, V70. -/
theorem test_c7Fold :
    (after (.c7Fold 0x40) (withRem 0x00)).map (·.c7Rem) = some (some 0x64)
      ∧ (after (.c7Fold 0x00) ((withRem 0x4A).setAcc 0x1234)).map (fun t => (t.c7Rem, t.c16Acc)) =
          some (some 0x7C, some 0x1234) := by decide

/-- V65 to V67. -/
theorem test_c7Fin :
    returned .c7Fin (withRem 0x4A) = some 0x00000095 ∧ returned .c7Fin (withRem 0x00) = some 0x00000001
      ∧ returned .c7Fin (withRem 0x7F) = some 0x000000FF := by decide

/-- V68: no value is held after the fold either (R33), and U1 is met. -/
theorem test_c7Fold_of_no_value :
    (after (.c7Fold 0x40) State.reset).map (fun t => (t.c7Rem, t.draws, t.u1Met)) = some (none, 0, true) := by decide

/-- U1: a read of no value draws a free value, and the register holds none afterwards. -/
theorem test_c7Rd_of_no_value :
    (after .c7Rd State.reset).map (fun t => (t.c7Rem, t.draws, t.u1Met)) = some (none, 1, true) := by decide

/-! The C16 unit. -/

/-- V110, V121: a load leaves the flag. -/
theorem test_c16Ld :
    (after (.c16Ld 0) State.reset).map (fun t => (t.c16Acc, t.c16Mismatch)) = some (some 0, none)
      ∧ (after (.c16Ld 0) ((withAcc 0x7FA1).setMismatch true)).map (fun t => (t.c16Acc, t.c16Mismatch)) =
          some (some 0, some true) := by decide

/-- V114. -/
theorem test_c16Rd : returned .c16Rd (withAcc 0x7FA1) = some 0x00007FA1 := by decide

/-- V112, V113. -/
theorem test_c16Fold :
    (after (.c16Fold 0x01) (withAcc 0x0000)).map (·.c16Acc) = some (some 0x1021)
      ∧ (after (.c16Fold 0x02) (withAcc 0x1021)).map (·.c16Acc) = some (some 0x1373) := by decide

/-- As `test_c7Fold_of_no_value`. -/
theorem test_c16Fold_of_no_value :
    (after (.c16Fold 0x01) State.reset).map (fun t => (t.c16Acc, t.draws, t.u1Met)) = some (none, 0, true) := by decide

/-- V115 to V117: equal, unequal in the lowest bit, and not sticky. -/
theorem test_c16Chk :
    (after (.c16Chk 0x7FA1) (withAcc 0x7FA1)).map (·.c16Mismatch) = some (some false)
      ∧ (after (.c16Chk 0x7FA0) ((withAcc 0x7FA1).setMismatch false)).map (·.c16Mismatch) = some (some true)
      ∧ (after (.c16Chk 0x7FA1) ((withAcc 0x7FA1).setMismatch true)).map (·.c16Mismatch) = some (some false) := by decide

/-- V118. -/
theorem test_c16Stat :
    returned .c16Stat (State.reset.setMismatch true) = some 0x00000001
      ∧ returned .c16Stat (State.reset.setMismatch false) = some 0x00000000 := by decide

/-! The SPI unit. -/

/-- V130, V136. -/
theorem test_spiDiv :
    (after (.spiDiv 0xABC) State.reset).map (·.div) = some 0xABC
      ∧ refusal (exec (.spiDiv 3) (spi .auto [0xFF] [] [])) = some .writeWhileSending := by decide

/-- V131. -/
theorem test_spiRddiv : returned .spiRddiv (State.reset.setDiv 0xABC) = some 0x00000ABC := by decide

/-- V132, V133: the same mode again is one more event. -/
theorem test_spiCs :
    (after (.spiCs 2) (spi .auto [] [] [])).map (fun t => (t.mode, t.wire)) = some (.hold, [.mode .hold])
      ∧ (after (.spiCs 2) (spi .hold [] [] [])).map (fun t => (t.mode, t.wire)) = some (.hold, [.mode .hold])
      ∧ (after (.spiCs 3) (spi .hold [] [] [])).map (·.mode) = some .off := by decide

/-- V135, V136; the reserved value is tested first (R228). -/
theorem test_spiCs_refused :
    refusal (exec (.spiCs 1) (spi .auto [0xFF] [] [])) = some .reservedMode
      ∧ refusal (exec (.spiCs 0) (spi .auto [0xFF] [] [])) = some .writeWhileSending := by decide

/-- V137, and R87's other numbers. -/
theorem test_spiRdcs :
    returned .spiRdcs (spi .off [] [] []) = some 3 ∧ returned .spiRdcs (spi .hold [] [] []) = some 2
      ∧ returned .spiRdcs (spi .auto [] [] []) = some 0 := by decide

/-- V138. -/
theorem test_spiTx : (after (.spiTx 0x40) State.reset).map (·.txq) = some [0x40] := by decide

/-- V142 with the depth as it is: a full queue. -/
theorem test_spiTxst_full :
    returned .spiTxst { State.reset with txq := List.replicate Config.fifoDepth 0x00 } = some 0x80000000 := by
  have h : txFull { State.reset with txq := List.replicate Config.fifoDepth 0x00 } = true := by simp [txFull]
  show some (txfifoWord (txFull _)) = _
  rw [h]; rfl

/-- V141 at the empty end. -/
theorem test_spiTxst_not_full : returned .spiTxst State.reset = some 0x00000000 := by decide

/-- V145 to V147: oldest first, and an idle byte is a byte. -/
theorem test_spiRx :
    (after .spiRx (spi .auto [] [0xFE, 0x12] [])).map (fun t => (t.rdata, t.rxq)) = some (some 0x000000FE, [0x12])
      ∧ (after .spiRx (spi .auto [] [0xFF] [])).map (fun t => (t.rdata, t.rxq)) = some (some 0x000000FF, []) := by decide

/-- V144: bit 31, whatever the bits below it, for as many reads as the host makes. -/
theorem test_spiRx_empty :
    (returned .spiRx State.reset).map rxIsSentinel = some true ∧ (after .spiRx State.reset).map (·.rxq) = some [] :=
  ⟨congrArg some (Laws.rxIsSentinel_sentinelWord _), rfl⟩

/-- V150 to V152, V154. -/
theorem test_shift :
    (nextOf (shift (spi .hold [0x40] [] [0xFF]))).map (fun t => (t.txq, t.rxq, t.wire)) =
        some ([], [0xFF], [.exchange .asserted 0x40 0xFF])
      ∧ (nextOf (shift (spi .off [0xFF] [] [0x3C]))).map (fun t => (t.rxq, t.wire)) =
        some ([0x3C], [.exchange .deasserted 0xFF 0x3C])
      ∧ (nextOf (shift (spi .auto [0xFF] [] [0xFF]))).map (·.wire) = some [.exchange .asserted 0xFF 0xFF]
      ∧ (nextOf (shift (spi .auto [] [] [0x01]))).map (fun t => (t.rxq, t.script)) = some ([], [0x01]) := by decide

/-- V155. -/
theorem test_shift_overflow :
    refusal (shift (spi .hold [0xFF] (List.replicate Config.fifoDepth 0x00) [])) = some .receiveOverflow := by
  simp [shift, spi, rxFull, refusal]

/-! The poll loop. -/

/-- What a transfer of `40` comes to with a card that answers `3C`: the reply, the sentinels read on the way, the bytes
returned, and what is left of `pace`. -/
def transferred (pace : List Nat) : Option (Byte × Nat × List Byte × List Nat) :=
  match transfer 0x40 { spi .hold [] [] [0x3C] with pace := pace } with
  | .done r t => some (r, t.draws, t.taken, t.pace)
  | .refused _ => none

/-- R181: the loop reads until bit 31 is 0, here after no turn of the shifter before the write and none before two reads. -/
theorem test_transfer_polls : transferred [0, 0, 0, 1, 5] = some (0x3C, 2, [0x3C], [5]) := by
  simp only [transferred]
  rw [Laws.transfer_of_quiescent _ _ ⟨rfl, rfl⟩]
  decide

/-- R165: with no turns fixed the byte is there at the first read. -/
theorem test_transfer_eager : transferred [] = some (0x3C, 0, [0x3C], []) := by decide

/-- R181: a byte left over in the receive queue is what the loop takes; here the shifter has no turn, and `40` stays queued. -/
theorem test_transfer_takes_the_oldest :
    transfer 0x40 { spi .hold [] [0xAB] [0x3C] with pace := [0, 0] } = .done 0xAB { spi .hold [0x40] [] [0x3C] with
      rdata := some 0xAB, sent := [0x40], taken := [0xAB] } := rfl

/-! The command units. The scripts answer `FF` to the leading idle byte and to the six frame bytes. -/

/-- A card that answers `FF` seven times and then `rest`. -/
def card (rest : List Byte) : State := spi .auto [] [] (List.replicate 7 0xFF ++ rest)

/-- What a command unit returns. -/
def resultOf (i : Instr) (rest : List Byte) : Option CmdResult := (after i (card rest)).bind (·.cmd)

/-- P3: the whole wire trace of a CMD0 unit answered `01` at the second poll. -/
theorem test_cmd0_wire :
    (after .cmd0 (card [0xFF, 0x01, 0xFF])).map (·.wire) = some [.mode .hold,
      .exchange .asserted 0xFF 0xFF, .exchange .asserted 0x40 0xFF, .exchange .asserted 0x00 0xFF,
      .exchange .asserted 0x00 0xFF, .exchange .asserted 0x00 0xFF, .exchange .asserted 0x00 0xFF,
      .exchange .asserted 0x95 0xFF, .exchange .asserted 0xFF 0xFF, .exchange .asserted 0xFF 0x01,
      .exchange .asserted 0xFF 0xFF, .mode .auto] := by decide

/-- P3, P3b (V11). -/
theorem test_cmd0_verdict :
    resultOf .cmd0 [0xFF, 0x01, 0xFF] = some ⟨0x01, [], some .ok⟩
      ∧ resultOf .cmd0 [0xFF, 0x05, 0xFF] = some ⟨0x05, [], some .checkFailed⟩ := by decide

/-- V206, V207. -/
theorem test_cmd8_pass :
    resultOf .cmd8 [0x01, 0x00, 0x00, 0x01, 0xAA, 0xFF] = some ⟨0x01, [0x00, 0x00, 0x01, 0xAA], some .ok⟩
      ∧ resultOf .cmd8 [0x01, 0x12, 0x34, 0xF1, 0xAA, 0xFF] = some ⟨0x01, [0x12, 0x34, 0xF1, 0xAA], some .ok⟩ := by decide

/-- V208, V209. -/
theorem test_cmd8_fail :
    (resultOf .cmd8 [0x01, 0x00, 0x00, 0x02, 0xAA, 0xFF]).bind (·.verdict) = some .checkFailed
      ∧ (resultOf .cmd8 [0x01, 0x00, 0x00, 0x01, 0xAB, 0xFF]).bind (·.verdict) = some .checkFailed := by decide

/-- R191: no check. -/
theorem test_cmd55 : resultOf .cmd55 [0x01, 0xFF] = some ⟨0x01, [], none⟩ := by decide

/-- R191: `00` ends the loop, `01` goes on, anything else fails (V205). -/
theorem test_acmd41 :
    resultOf .acmd41 [0x00, 0xFF] = some ⟨0x00, [], some .ok⟩ ∧ resultOf .acmd41 [0x01, 0xFF] = some ⟨0x01, [], none⟩
      ∧ resultOf .acmd41 [0x7F, 0xFF] = some ⟨0x7F, [], some .checkFailed⟩ := by decide

/-- V210, V211. -/
theorem test_cmd58 :
    resultOf .cmd58 [0x00, 0xC0, 0xFF, 0x80, 0x00, 0xFF] = some ⟨0x00, [0xC0, 0xFF, 0x80, 0x00], some .ok⟩
      ∧ (resultOf .cmd58 [0x00, 0x40, 0xFF, 0x80, 0x00, 0xFF]).bind (·.verdict) = some .checkFailed := by decide

/-- R193. -/
theorem test_cmd16 :
    resultOf .cmd16 [0x00, 0xFF] = some ⟨0x00, [], some .ok⟩
      ∧ resultOf .cmd16 [0x04, 0xFF] = some ⟨0x04, [], some .checkFailed⟩ := by decide

/-- V50, R195: the frame of block 22 as sent, and chip select held on `00`. -/
theorem test_cmd18 :
    (after (.cmd18 0x22 0x50) (card [0x00])).map (fun t => (t.sent, t.mode)) =
      some ([0xFF, 0x52, 0x00, 0x00, 0x00, 0x22, 0xA1, 0xFF], .hold) := by decide

/-- V228: 8 exchanges and the trailing one, no CMD12. -/
theorem test_cmd18_failure :
    (after (.cmd18 0x22 0x50) (card [0x04, 0xFF])).map (fun t => (t.sent.length, t.mode, t.cmd)) =
      some (9, .auto, some ⟨0x04, [], some .cmd18Failure⟩) := by decide

/-- R195: CMD12's frame, and its response not checked. -/
theorem test_cmd12 :
    (after .cmd12 (card [0xFF, 0x00, 0xFF])).map (fun t => (t.sent, t.cmd)) =
      some ([0xFF, 0x4C, 0x00, 0x00, 0x00, 0x00, 0x61, 0xFF, 0xFF, 0xFF], some ⟨0x00, [], none⟩) := by decide

/-! Witnesses: for each statement with hypotheses, states and operands that meet them, each clause by itself, at the boundary
of its range. A statement that is not named here has no hypotheses. -/

/-- The unit after reset is quiescent (the command units, `TransferPollsUntilTheReply`, the host sequences). -/
theorem test_witness_quiescent : Quiescent State.reset := ⟨rfl, rfl⟩

/-- A full transmit queue and a full receive queue. -/
def fullTx : State := { State.reset with txq := List.replicate Config.fifoDepth 0x00 }

def fullRx : State := { State.reset with rxq := List.replicate Config.fifoDepth 0x00 }

theorem fullTx_length : fullTx.txq.length = Config.fifoDepth := List.length_replicate

theorem fullRx_length : fullRx.rxq.length = Config.fifoDepth := List.length_replicate

/-- A state whose next turn is the host's word `w`. -/
def placed (w : HostWord) : State := State.reset.setAgenda [.host (.word w)]

theorem test_witness_EncodeOfDecodeKeepsTheUsedBits :
    decode 0x448FFFFFF40 = .ok (.spiTx 0x40) ∧ decode 0x5212345678E9 = .ok (.cmd18 0x12345678 0x74) := by decide

/-- One word for each case of R102, and one that is no such case. -/
theorem test_witness_ReservedTransactionWordsAreRefused :
    (placed (regWord true 3 0x00 0)).agenda = .host (.word (regWord true 3 0x00 0)) :: []
      ∧ refusal (step (placed (regWord true 3 0x00 0))) = some (.reservedWord .unitThree)
      ∧ refusal (step (placed (regWord true 0 0x01 0))) = some (.reservedWord .misalignedOffset)
      ∧ refusal (step (placed (regWord true 0 0x50 0))) = some (.reservedWord .noRegister)
      ∧ refusal (step (placed (regWord false 1 0x0C 0))) = some (.reservedWord .noRegister)
      ∧ refusal (step (placed (regWord false 2 0x10 0))) = some (.reservedWord .noRegister)
      ∧ refusal (step (placed (regWord true 1 0x08 0))) = some (.reservedWord .readOnly)
      ∧ refusal (step (placed (regWord false 2 0x08 0))) = some (.reservedWord .writeOnly)
      ∧ refusal (step (placed (regWord true 0 0x4C 0))) = some (.reservedWord .rxfifoWrite)
      ∧ (nextOf (step (placed (regWord false 2 0x0C 0)))).isSome := by decide

theorem test_witness_StepRunsTheDecodedInstruction :
    (placed 0x40000000003).agenda = .host (.word 0x40000000003) :: [] ∧ decode 0x40000000003 = .ok (.spiDiv 3)
      ∧ (placed 0x70000000000).agenda = .host (.word 0x70000000000) :: []
      ∧ decode 0x70000000000 = .error .unitThree := by decide

/-- A state whose next turn is the host's bus access `a`. -/
def placedBus (a : BusAccess) : State := State.reset.setAgenda [.host (.bus a)]

/-- A bus access to the first register of the SPI window, wherever the platform puts it: a word that decodes. -/
theorem test_witness_StepRunsTheDecodedInstruction_bus :
    (placedBus ⟨true, Config.bases.spi, .w32, 3⟩).agenda = .host (.bus ⟨true, Config.bases.spi, .w32, 3⟩) :: []
      ∧ busWord Config.bases ⟨true, Config.bases.spi, .w32, 3⟩ = .ok 0x40000000003
      ∧ decode 0x40000000003 = .ok (.spiDiv 3) := by
  refine ⟨rfl, ?_, by decide⟩
  simp [busWord, windowOf, inWindow, Config.bases]
  decide

/-- A bus access inside the window where no register is, and a byte access. -/
theorem test_witness_StepRunsTheDecodedInstruction_bus_refused :
    busWord Config.bases ⟨true, Config.bases.spi + 4, .w32, 3⟩ = .ok 0x40400000003
      ∧ decode 0x40400000003 = .error .noRegister
      ∧ busWord Config.bases ⟨true, Config.bases.spi, .w8, 3⟩ = .error .accessWidth := by
  refine ⟨?_, by decide, ?_⟩ <;> simp [busWord, windowOf, inWindow, Config.bases]
  decide

/-- Three windows side by side. -/
def bases : Bases := ⟨0x000, 0x100, 0x200⟩

theorem test_witness_AddressReachesUnitAtOffset : windowsDisjoint bases := by
  intro a
  unfold inWindow bases
  simp only [Bool.and_eq_true]
  refine ⟨?_, ?_, ?_⟩ <;> rintro ⟨⟨h₁, h₂⟩, h₃, h₄⟩ <;> have := of_decide_eq_true h₂ <;> have := of_decide_eq_true h₃ <;> omega

/-- The first and the last address of each window, and the first beyond them. -/
theorem test_witness_AddressReachesUnitAtOffset_edges :
    windowOf bases 0x000 = some (0, 0x00) ∧ windowOf bases 0x0FF = some (0, 0xFF)
      ∧ windowOf bases 0x100 = some (1, 0x00) ∧ windowOf bases 0x1FF = some (1, 0xFF)
      ∧ windowOf bases 0x200 = some (2, 0x00) ∧ windowOf bases 0x2FF = some (2, 0xFF)
      ∧ windowOf bases 0x300 = none := by decide

/-- An access with a meaning, and one that fails each condition (R60). -/
theorem test_witness_OnlyAlignedWordAccessesHaveAMeaning :
    (busWord bases ⟨true, 0x104, .w32, 0x40⟩).toOption = some 0x50400000040
      ∧ (busWord bases ⟨true, 0x104, .w16, 0x40⟩).toOption = none
      ∧ (busWord bases ⟨true, 0x105, .w32, 0x40⟩).toOption = none
      ∧ (busWord bases ⟨true, 0x300, .w32, 0x40⟩).toOption = none := by decide

/-- The first and the last bit position. -/
theorem test_witness_FrameCrcDetectsEverySingleBitError : 0 < 40 ∧ 39 < 40 := by decide

/-- A block, its first and last byte, and the first and last bit positions. -/
theorem test_witness_BlockCheckAcceptsTheRightCrcAndRejectsOneFlippedBit :
    (List.replicate blockSize (0x00 : Byte)).length = blockSize ∧ 0 < blockSize ∧ 511 < blockSize ∧ 7 < 8 ∧ 15 < 16 := by
  refine ⟨List.length_replicate, ?_⟩; decide

theorem test_witness_CommandFramesCarryTheirCrc : (Instr.cmd18 0x00000022 0x50).wellFormed = true := by decide +kernel

/-- A remainder held, and none. -/
theorem test_witness_C7_held_and_not : (withRem 0x4A).c7Rem = some 0x4A ∧ State.reset.c7Rem = none := by decide

/-- An accumulator held, and none. -/
theorem test_witness_C16_held_and_not : (withAcc 0x7FA1).c16Acc = some 0x7FA1 ∧ State.reset.c16Acc = none := by decide

theorem test_witness_C16StatusReturnsTheFlag :
    (State.reset.setMismatch true).c16Mismatch = some true ∧ State.reset.c16Mismatch = none := by decide

/-- Nothing queued, and a byte queued (`SpiDivSetsTheDivider`, `SpiCsWritesTheMode`). -/
theorem test_witness_txq_empty_and_not : State.reset.txq = [] ∧ (spi .auto [0xFF] [] []).txq ≠ [] := by decide

theorem test_witness_SpiTxQueuesTheByte : State.reset.txq.length ≠ Config.fifoDepth := Nat.ne_of_lt Laws.fifoDepth_pos

theorem test_witness_SpiTxOnAFullQueueDropsOrOverwrites : fullTx.txq.length = Config.fifoDepth := fullTx_length

theorem test_witness_SpiRxTakesTheOldestByteOrReportsEmpty :
    State.reset.rxq = [] ∧ (spi .auto [] [0xFE, 0x12] []).rxq = 0xFE :: [0x12] := by decide

/-- A state in which the shifter has the next turn. -/
def turning (tx rx : List Byte) : State := (spi .auto tx rx []).setAgenda [.shifter]

/-- Nothing queued; a byte queued with room; a byte queued with the receive queue full. -/
theorem test_witness_ShifterTurnIsOneExchange :
    ((turning [] []).agenda = .shifter :: [] ∧ (turning [] []).txq = [])
      ∧ ((turning [0xFF] []).agenda = .shifter :: [] ∧ (turning [0xFF] []).txq = 0xFF :: []
        ∧ (turning [0xFF] []).rxq.length ≠ Config.fifoDepth)
      ∧ ((turning [0xFF] fullRx.rxq).agenda = .shifter :: [] ∧ (turning [0xFF] fullRx.rxq).txq = 0xFF :: []
        ∧ (turning [0xFF] fullRx.rxq).rxq.length = Config.fifoDepth) :=
  ⟨⟨rfl, rfl⟩, ⟨rfl, rfl, Nat.ne_of_lt Laws.fifoDepth_pos⟩, rfl, rfl, fullRx_length⟩

theorem test_witness_OnlyTheCheckWritesTheMismatchFlag :
    (∃ t, exec (.c16Ld 0) ((withAcc 0x7FA1).setMismatch true) = .next t) ∧ (∀ e, Instr.c16Ld 0 ≠ .c16Chk e)
      ∧ ∃ t, shift (State.reset.setMismatch true) = .next t := by
  refine ⟨⟨_, rfl⟩, ?_, ⟨_, rfl⟩⟩
  intro e; simp

/-- One instruction of each unit. -/
theorem test_witness_UnitsShareNoState :
    (∃ t, exec (.c7Fold 0x40) (withRem 0) = .next t) ∧ unitOf (.c7Fold 0x40) = .c7
      ∧ (∃ t, exec (.c16Fold 0x01) (withAcc 0) = .next t) ∧ unitOf (.c16Fold 0x01) = .c16
      ∧ (∃ t, exec (.spiTx 0x40) (withAcc 0) = .next t) ∧ unitOf (.spiTx 0x40) = .spi
      ∧ (∃ t, shift (withAcc 0) = .next t) :=
  ⟨⟨_, rfl⟩, rfl, ⟨_, rfl⟩, rfl, ⟨_, rfl⟩, rfl, ⟨_, rfl⟩⟩

/-- Two states with the same C7 unit and another SPI unit, and with the same C16 unit and another SPI unit. -/
theorem test_witness_UnitResultsDependOnTheirOwnUnitOnly :
    (∃ t₁ t₂, exec .c7Fin (withRem 0x4A) = .next t₁ ∧ exec .c7Fin ((withRem 0x4A).setDiv 3) = .next t₂)
      ∧ SameC7 (withRem 0x4A) ((withRem 0x4A).setDiv 3)
      ∧ (∃ t₁ t₂, exec .c16Rd (withAcc 0x4A) = .next t₁ ∧ exec .c16Rd ((withAcc 0x4A).setDiv 3) = .next t₂)
      ∧ SameC16 (withAcc 0x4A) ((withAcc 0x4A).setDiv 3)
      ∧ (withRem 0x4A).draws = ((withRem 0x4A).setDiv 3).draws ∧ (withRem 0x4A).rdata = ((withRem 0x4A).setDiv 3).rdata
      ∧ (withAcc 0x4A).draws = ((withAcc 0x4A).setDiv 3).draws ∧ (withAcc 0x4A).rdata = ((withAcc 0x4A).setDiv 3).rdata :=
  ⟨⟨_, _, rfl, rfl⟩, rfl, ⟨_, _, rfl, rfl⟩, ⟨rfl, rfl⟩, rfl, rfl, rfl, rfl⟩

theorem test_witness_HeldValuesStayHeld :
    (∃ t, step (((withRem 0x4A).setAcc 0x1234).setMismatch true) = .next t)
      ∧ (((withRem 0x4A).setAcc 0x1234).setMismatch true).c7Rem.isSome
      ∧ (((withRem 0x4A).setAcc 0x1234).setMismatch true).c16Acc.isSome
      ∧ (((withRem 0x4A).setAcc 0x1234).setMismatch true).c16Mismatch.isSome :=
  ⟨⟨_, rfl⟩, rfl, rfl, rfl⟩

/-- The operations that give a register its first value, and a turn of the shifter. -/
theorem test_witness_HeldValuesStayHeld_first :
    State.reset.c7Rem = none ∧ (∃ t, exec (.c7Ld 0) State.reset = .next t ∧ t.c7Rem.isSome)
      ∧ State.reset.c16Acc = none ∧ (∃ t, exec (.c16Ld 0) State.reset = .next t ∧ t.c16Acc.isSome)
      ∧ State.reset.c16Mismatch = none ∧ (∃ t, exec (.c16Chk 0) State.reset = .next t ∧ t.c16Mismatch.isSome)
      ∧ ∃ t, shift State.reset = .next t :=
  ⟨rfl, ⟨_, rfl, rfl⟩, rfl, ⟨_, rfl, rfl⟩, rfl, ⟨_, rfl, rfl⟩, _, rfl⟩

/-- Each refusal of a register access; a frame with a byte still queued, and one from a quiescent unit. -/
theorem test_witness_InstructionsAreRefusedOnlyWhereUnspecified :
    exec (.spiDiv 3) (spi .auto [0xFF] [] []) = .refused .writeWhileSending
      ∧ exec (.spiCs 1) State.reset = .refused .reservedMode
      ∧ exec (.spiCs 2) (spi .auto [0xFF] [] []) = .refused .writeWhileSending
      ∧ isFrame .cmd0 = true ∧ exec .cmd0 (spi .auto [0xFF] [] []) = .refused .writeWhileSending
      ∧ Quiescent State.reset ∧ ∃ t, exec .cmd0 State.reset = .next t :=
  ⟨rfl, rfl, rfl, rfl, by simp [exec, execCmd0, commandUnit, unitRun, Laws.sdCmd_of_pending, spi, accThen], ⟨rfl, rfl⟩, _, rfl⟩

/-- A frame met by a full receive queue and nothing queued: its first exchange is U6. -/
theorem test_witness_InstructionsAreRefusedOnlyWhereUnspecified_full :
    fullRx.txq = [] ∧ exec .cmd0 fullRx = .refused .receiveOverflow := by
  have hr : rxFull fullRx = true := by simp [rxFull, fullRx]
  have hn : fullRx.rxq.isEmpty = false := by simp [fullRx, Config.fifoDepth]
  have he : (fullRx.setMode .hold).enqueue idle = { fullRx.setMode .hold with txq := [idle], sent := [idle] } := rfl
  have hx : access execSpiRx { fullRx.setMode .hold with txq := [idle], sent := [idle] } = .refused .receiveOverflow := by
    simp [access, pacedTurns, shifterTurns, fullRx, shift, rxFull, State.reset, accOp, accThen]
  have ht : transfer idle (fullRx.setMode .hold) = .refused .receiveOverflow := by
    rw [transfer, Laws.access_of_empty _ _ rfl, execSpiTx]
    show accThen (.done () ((fullRx.setMode .hold).enqueue idle)) _ = _
    rw [he]
    show accThen (access execSpiRx _) _ = _
    rw [hx]; rfl
  refine ⟨rfl, ?_⟩
  simp only [exec, execCmd0, commandUnit, hn, Bool.and_false, unitRun, sdCmd, Laws.execSpiCs_csModeBits fullRx .hold rfl,
    accOp, accThen, ht]
  rfl

/-- A byte on its way: one exchange is still to be made. -/
def sending : State := State.reset.enqueue 0x40

/-- The invariant holds of a state with a byte queued, which then has a successor with an exchange on the wire. -/
theorem test_witness_SpiInvariantKeptByEveryStep :
    SpiInv sending ∧ (nextOf (step sending)).map (fun t => (t.txq, t.wire.length)) = some ([], 1) := by
  have h : sending = { State.reset with txq := [0x40], sent := [0x40] } := rfl
  refine ⟨?_, by decide⟩
  rw [h]
  refine ⟨⟨Laws.fifoDepth_pos, Nat.zero_le _⟩, ⟨fun _ => rfl, rfl⟩, ⟨rfl, trivial⟩⟩

/-- An exchange and a write of HOLD after which the step's events are not empty, in a state whose wire tells its mode. -/
theorem test_witness_WireHistoryIsNeverRewritten :
    (∃ t, step sending = .next t ∧ t.wire = sending.wire ++ [.exchange (csLevel sending.mode) 0x40 (cardByte sending 0x40)])
      ∧ wireMode sending.mode sending.wire = sending.mode
      ∧ (∃ t, step (placed 0x41800000002) = .next t ∧ t.wire = (placed 0x41800000002).wire ++ [.mode .hold])
      ∧ ∃ t, step (placed 0x41800000000) = .next t ∧ t.mode ≠ .hold ∧ t.wire = (placed 0x41800000000).wire ++ [.mode .auto] :=
  ⟨⟨_, rfl, rfl⟩, rfl, ⟨_, rfl, rfl⟩, _, rfl, by decide, rfl⟩

/-- U8 on the line: it is asserted after an exchange in HOLD, and released by a write of AUTO. -/
theorem test_csLine :
    csLine .auto .deasserted [.mode .hold, .exchange .asserted 0xFF 0xFF] = .asserted
      ∧ csLine .auto .deasserted [.mode .hold, .exchange .asserted 0xFF 0xFF, .mode .hold] = .asserted
      ∧ csLine .auto .deasserted [.mode .hold, .exchange .asserted 0xFF 0xFF, .mode .auto] = .deasserted := by decide

theorem test_witness_ShifterDrainsTheQueue :
    sending.agenda = [] ∧ sending.txq.length + sending.rxq.length ≤ Config.fifoDepth := ⟨rfl, Laws.fifoDepth_pos⟩

/-- The bound itself, and below it the unit in which the host may write. -/
theorem test_witness_OneOutstandingByteMeetsNoOverflow :
    OneOutstanding sending ∧ OneOutstanding State.reset ∧ Quiescent State.reset :=
  ⟨by unfold OneOutstanding; decide, by unfold OneOutstanding; decide, rfl, rfl⟩

/-- A card that answers `FF` for as long as a command unit looks (V222, P3c). -/
def silent : State := spi .auto [] [] (List.replicate (cmdPollMax + 7) 0xFF)

/-- A transfer while the card answers `FF`. -/
theorem transfer_silent (b : Byte) (m : Nat) (s : State) (hq : Quiescent s) (hs : s.script = List.replicate (m + 1) 0xFF) :
    ∃ t, transfer b s = .done 0xFF t ∧ Quiescent t ∧ t.script = List.replicate m 0xFF := by
  have he := Laws.transfer_of_quiescent s b hq
  simp only [cardByte, hs, List.replicate_succ, List.headD_cons, List.tail_cons] at he
  exact ⟨_, he, hq, rfl⟩

theorem transfers_silent (bs : List Byte) (m : Nat) (s : State) (hq : Quiescent s)
    (hs : s.script = List.replicate (m + bs.length) 0xFF) :
    ∃ t, transfers bs s = .done () t ∧ Quiescent t ∧ t.script = List.replicate m 0xFF := by
  induction bs generalizing s with
  | nil => exact ⟨s, rfl, hq, hs⟩
  | cons b bs ih =>
    obtain ⟨t, ht, hq', hs'⟩ := transfer_silent b (m + bs.length) s hq hs
    obtain ⟨u, hu⟩ := ih t hq' hs'
    exact ⟨u, by simpa [transfers, ht, accThen] using hu⟩

theorem pollResponse_silent (n : Nat) (s : State) (hq : Quiescent s) (hs : s.script = List.replicate (n + 1) 0xFF) :
    ∃ t, pollResponse n s = .done 0xFF t := by
  induction n generalizing s with
  | zero =>
    obtain ⟨t, ht, -⟩ := transfer_silent idle 0 s hq hs
    exact ⟨t, ht⟩
  | succ n ih =>
    obtain ⟨t, ht, hq', hs'⟩ := transfer_silent idle (n + 1) s hq hs
    obtain ⟨u, hu⟩ := ih t hq' hs'
    exact ⟨u, by simpa [pollResponse, ht, accThen, isResponse] using hu⟩

theorem sdCmd_silent (bytes : List Byte) (hb : bytes.length = 6) : ∃ t, sdCmd bytes silent = .done 0xFF t := by
  obtain ⟨t, ht, hq, hs⟩ := transfer_silent idle (cmdPollMax + 6) (silent.setMode .hold) ⟨rfl, rfl⟩ rfl
  obtain ⟨u, hu, hq', hs'⟩ := transfers_silent bytes cmdPollMax t hq (by rw [hs, hb])
  obtain ⟨v, hv⟩ := pollResponse_silent (cmdPollMax - 1) u hq' hs'
  exact ⟨v, by rw [sdCmd, Laws.execSpiCs_csModeBits _ _ rfl]; simp [accOp, accThen, ht, hu, hv]⟩

theorem unitRun_silent (bytes : List Byte) (n : Nat) (verdict : Byte → List Byte → Option HostCode)
    (hb : bytes.length = 6) : ∃ c t, unitRun bytes n verdict silent = .done c t ∧ c.r1 = 0xFF := by
  obtain ⟨r, e, t, he, -⟩ := Laws.unitRun_done bytes n verdict silent hb ⟨rfl, rfl⟩
  obtain ⟨u, hu⟩ := sdCmd_silent bytes hb
  refine ⟨_, t, he, ?_⟩
  simp only [unitRun, hu, accThen] at he
  split at he
  · split at he <;> cases he
    rfl
  · cases he

theorem cmd18Run_silent (bytes : List Byte) (hb : bytes.length = 6) :
    ∃ c t, cmd18Run bytes silent = .done c t ∧ c.r1 = 0xFF := by
  obtain ⟨u, hu⟩ := sdCmd_silent bytes hb
  have h : ∃ c t, cmd18Run bytes silent = .done c t := by
    obtain ⟨_, _, _, t, -, -, -, ⟨-, he, -⟩ | ⟨-, he, -⟩⟩ := Laws.cmd18Run_done bytes silent hb ⟨rfl, rfl⟩ <;> exact ⟨_, t, he⟩
  obtain ⟨c, t, he⟩ := h
  refine ⟨c, t, he, ?_⟩
  simp only [cmd18Run, hu, accThen] at he
  split at he
  · cases he; rfl
  · split at he <;> cases he
    rfl

/-- Every checked command meets the hypotheses with a card that does not answer. -/
theorem test_witness_TimeoutFailsEveryCheck :
    Quiescent silent
      ∧ ∀ i ∈ [Instr.cmd0, .cmd8, .acmd41, .cmd58, .cmd16, .cmd18 0 0x70],
          ∃ t c, exec i silent = .next t ∧ t.cmd = some c ∧ isResponse c.r1 = false := by
  have h : ∀ unit : State → Accessed CmdResult, (∃ c t, unit silent = .done c t ∧ c.r1 = 0xFF) →
      ∃ t c, commandUnit unit silent = .next t ∧ t.cmd = some c ∧ isResponse c.r1 = false := by
    rintro unit ⟨c, t, hu, hr⟩
    exact ⟨_, c, Laws.commandUnit_done hu, rfl, by rw [hr]; rfl⟩
  refine ⟨⟨rfl, rfl⟩, ?_⟩
  intro i hi
  simp only [List.mem_cons, List.not_mem_nil, or_false] at hi
  rcases hi with rfl | rfl | rfl | rfl | rfl | rfl <;>
    simp only [exec, execCmd0, execCmd8, execAcmd41, execCmd58, execCmd16, execCmd18]
  case inr.inr.inr.inr.inr => exact h _ (cmd18Run_silent _ rfl)
  all_goals exact h _ (unitRun_silent _ _ _ rfl)

/-- Both ways CMD18 can go. -/
theorem test_witness_Cmd18UnitOnTheWire :
    Quiescent (card [0x00]) ∧ (resultOf (.cmd18 0x22 0x50) [0x00]).map (·.r1) = some 0x00
      ∧ (resultOf (.cmd18 0x22 0x50) [0x04, 0xFF]).map (·.r1) = some 0x04 :=
  ⟨⟨rfl, rfl⟩, by decide⟩

theorem test_witness_EveryCommandUnitIsASequenceOfRegisterAccesses :
    isFrame .cmd0 = true ∧ ∃ t, exec .cmd0 State.reset = .next t := ⟨rfl, _, rfl⟩

/-- The same from a unit with a byte left over in its receive queue, where the shifter has one turn before each write after the
first: every reply is read one transfer late. -/
theorem test_witness_EveryCommandUnitIsASequenceOfRegisterAccesses_not_quiescent :
    (after .cmd0 { spi .auto [] [0xAB] (List.replicate 6 0xFF ++ [0x01, 0xFF, 0x7E]) with
      pace := [0, 0] ++ (List.replicate 8 [1, 0]).flatten ++ [1] }).map (fun t => (t.rxq, t.mode, t.cmd)) =
      some ([0x7E], .auto, some ⟨0x01, [], some .ok⟩) := by decide +kernel

/-- What a bring-up of one round returns, and the frames of its commands. -/
def bringUpCode (script : List Byte) : Option HostCode :=
  match bringUp 1 0 0 (spi .auto [] [] script) with
  | .done code _ => some code
  | _ => none

/-- What a card answers to one command unit: `FF` to the idle byte and the frame, `r` to the first poll, and `rest`. -/
def answer (r : Byte) (rest : List Byte) : List Byte := List.replicate 7 0xFF ++ r :: rest ++ [0xFF]

/-- V10 and V11: a bring-up that ends well, and one that ends at CMD0 answered `05`. -/
theorem test_witness_HostSequencesMeetNoUnspecifiedPointAndBringUpEndsAtFirstFailure :
    (∀ script, Quiescent (spi .auto [] [] script))
      ∧ bringUpCode (List.replicate 10 0xFF ++ answer 0x05 []) = some .checkFailed
      ∧ bringUpCode (List.replicate 10 0xFF ++ answer 0x01 [] ++ answer 0x01 [0x00, 0x00, 0x01, 0xAA] ++ answer 0x01 []
          ++ answer 0x00 [] ++ answer 0x00 [0xC0, 0xFF, 0x80, 0x00] ++ answer 0x00 []) = some .ok :=
  ⟨fun _ => ⟨rfl, rfl⟩, by decide +kernel, by decide +kernel⟩

/-- The code a copy returns, looked at for four bytes of a token wait. -/
def copyCode (count : Nat) (rest : List Byte) : Option HostCode :=
  match copy 4 0x1000 0x22 count (card rest) with
  | .done x _ => some x.1
  | _ => none

/-- V225, V228: a copy of no block sends CMD18 and CMD12 and succeeds; one whose CMD18 is answered `04` fails. -/
theorem test_witness_CopyStoresWholeBlocksAndStopsAtTheFirstMismatch :
    Quiescent (card [0x04, 0xFF])
      ∧ copyCode 0 [0x00, 0xFF, 0xFF, 0xFF, 0xFF, 0xFF, 0xFF, 0xFF, 0x00, 0xFF] = some .ok
      ∧ copyCode 1 [0x04, 0xFF] = some .cmd18Failure := ⟨⟨rfl, rfl⟩, by decide +kernel, by decide +kernel⟩

set_option maxRecDepth 20000 in
/-- A copy of one block of zeros whose trailing CRC is `0001` and not `0000` (R222). -/
theorem test_witness_CopyStoresWholeBlocksAndStopsAtTheFirstMismatch_mismatch :
    copyCode 1 ([0x00, 0xFE] ++ List.replicate 513 0x00 ++ [0x01] ++ List.replicate 7 0xFF ++ [0x00, 0xFF]) =
      some .crcMismatch := by decide +kernel

/-- A card that sends no token keeps the host waiting (R196). -/
theorem test_copy_waits : copy 2 0x1000 0x22 1 (card [0x00, 0xFF, 0x12]) = .waiting := by decide +kernel

/-- V12. -/
theorem test_locator_blocks :
    (locatorBlocks 2 4 128).length = 1 ∧ (locatorBlocks 2 128 128).length = 32 ∧ (locatorBlocks 2 4 128).head? = some 2 := by
  decide +kernel

end Sys2Proof.Tests
end

section
/-!
PROOFS. The CRC units as division of polynomials over GF(2) (spec/00_scope.md R13; spec/40_crc7.md section 1 and
spec/41_crc16.md section 1): one argument for every width and every generator, then each unit with its own generator.
-/
namespace Sys2Proof.Proofs

open Polynomial
open Sys2Proof.Machine

/-! The polynomial of a word, under the word's operations. -/

/-- The polynomial a value of width `w` stands for (R13): bit `i` is the coefficient of `x^i`. -/
noncomputable def toPoly {w : Nat} (v : BitVec w) : (ZMod 2)[X] :=
  ∑ i ∈ Finset.range w, if v.getLsbD i then X ^ i else 0

/-- The exclusive or of two coefficients is their sum: `p + p = 0` over GF(2). -/
theorem ite_xor_eq_add (a b : Bool) (p : (ZMod 2)[X]) :
    (if a ^^ b then p else 0) = (if a then p else 0) + (if b then p else 0) := by
  cases a <;> cases b <;> simp [CharTwo.add_self_eq_zero]

theorem toPoly_xor {w : Nat} (u v : BitVec w) : toPoly (u ^^^ v) = toPoly u + toPoly v := by
  simp only [toPoly, ← Finset.sum_add_distrib, BitVec.getLsbD_xor, ite_xor_eq_add]

/-- A shift by one multiplies by `x`, up to the term of the bit that leaves the word. -/
theorem toPoly_shiftLeft_one {w : Nat} (v : BitVec w) :
    toPoly (v <<< 1) + (if v.getLsbD (w - 1) then X ^ w else 0) = X * toPoly v := by
  cases w with
  | zero => simp [toPoly]
  | succ n =>
    have hbit : ∀ i ∈ Finset.range n, (v <<< 1).getLsbD (i + 1) = v.getLsbD i := fun i hi => by
      rw [BitVec.getLsbD_shiftLeft]
      simpa using fun _ => Finset.mem_range.mp hi
    have hshift : toPoly (v <<< 1) = ∑ i ∈ Finset.range n, if v.getLsbD i then X ^ (i + 1) else 0 := by
      rw [toPoly, Finset.sum_range_succ', Finset.sum_congr rfl fun i hi => by rw [hbit i hi]]
      simp
    rw [hshift]
    simp [toPoly, Finset.mul_sum, Finset.sum_range_succ, mul_add, pow_succ']

theorem degree_toPoly_lt {w : Nat} (v : BitVec w) : (toPoly v).degree < w := by
  rw [← mem_degreeLT]
  refine Submodule.sum_mem _ fun i hi => ?_
  have hi' : i < w := Finset.mem_range.mp hi
  split
  · rw [mem_degreeLT]
    exact (degree_X_pow_le i).trans_lt (by exact_mod_cast hi')
  · exact Submodule.zero_mem _

/-! One turn of a CRC loop, and the loop over a list of bits. -/

/-- One turn of the loop of R110 and R130, for a generator `x^w + g(x)`. -/
def crcBit {w : Nat} (g r : BitVec w) (bit : Bool) : BitVec w :=
  if r.getLsbD (w - 1) ^^ bit then (r <<< 1) ^^^ g else r <<< 1

theorem crc7_eq_foldl_crcBit (r : BitVec 7) (b : Byte) : crc7 r b = (bitsMsbFirst b).foldl (crcBit 0x09#7) r := rfl

theorem crc16_eq_foldl_crcBit (a : BitVec 16) (b : Byte) : crc16 a b = (bitsMsbFirst b).foldl (crcBit 0x1021#16) a := rfl

/-- The generator `x^w + g(x)`, of which the loop names the terms `g` below the leading one. -/
noncomputable def generator {w : Nat} (g : BitVec w) : (ZMod 2)[X] := X ^ w + toPoly g

theorem generator_monic {w : Nat} (g : BitVec w) : (generator g).Monic :=
  monic_X_pow_add (degree_toPoly_lt g)

theorem degree_generator {w : Nat} (g : BitVec w) : (generator g).degree = w := by
  rw [generator, degree_add_eq_left_of_degree_lt (by rw [degree_X_pow]; exact degree_toPoly_lt g), degree_X_pow]

/-- A word is its own remainder: its degree is below the generator's. -/
theorem toPoly_modByMonic_generator {w : Nat} (g r : BitVec w) : toPoly r %ₘ generator g = toPoly r := by
  rw [modByMonic_eq_self_iff (generator_monic g), degree_generator]
  exact degree_toPoly_lt r

/-- A turn multiplies by `x`, adds the bit as `x^w`, and takes the generator off once when the feedback bit is 1: the leading
term of the generator then cancels the bit that leaves the word against the bit read. -/
theorem toPoly_crcBit {w : Nat} (g r : BitVec w) (bit : Bool) :
    toPoly (crcBit g r bit) =
      X * toPoly r + (if bit then X ^ w else 0) + (if r.getLsbD (w - 1) ^^ bit then generator g else 0) := by
  have hfeedback := ite_xor_eq_add (r.getLsbD (w - 1)) bit (X ^ w)
  rw [← toPoly_shiftLeft_one r, add_assoc (toPoly _), ← hfeedback, crcBit, generator]
  split
  · rw [toPoly_xor, add_assoc, CharTwo.add_cancel_left]
  · simp

/-- The polynomial of a list of bits, the first bit at the highest power. -/
noncomputable def bitsPoly : List Bool → (ZMod 2)[X]
  | [] => 0
  | bit :: bits => (if bit then X ^ bits.length else 0) + bitsPoly bits

/-- `bitsMsbFirst` lists the bits of a byte in the order in which `bitsPoly` reads them. -/
theorem bitsPoly_bitsMsbFirst (b : Byte) : bitsPoly (bitsMsbFirst b) = toPoly b := by
  simp only [bitsPoly, bitsMsbFirst, toPoly, Finset.sum_range_succ, Finset.sum_range_zero, List.length_cons, List.length_nil]
  ring

/-- The loop keeps the remainder congruent, modulo the generator, to the dividend read so far. -/
theorem generator_dvd_foldl_crcBit_sub {w : Nat} (g : BitVec w) (bits : List Bool) (r : BitVec w) :
    generator g ∣ toPoly (bits.foldl (crcBit g) r) - (toPoly r * X ^ bits.length + bitsPoly bits * X ^ w) := by
  induction bits generalizing r with
  | nil => simp [bitsPoly]
  | cons bit bits ih =>
    have hturn : generator g ∣ (toPoly (crcBit g r bit) - (X * toPoly r + if bit then X ^ w else 0)) * X ^ bits.length := by
      rw [toPoly_crcBit, add_sub_cancel_left]
      refine Dvd.dvd.mul_right ?_ _
      split <;> simp
    refine (dvd_add (ih (crcBit g r bit)) hturn).trans (dvd_of_eq ?_)
    cases bit <;> simp [bitsPoly] <;> ring

/-- A CRC loop leaves the remainder of polynomial division. -/
theorem toPoly_foldl_crcBit {w : Nat} (g : BitVec w) (bits : List Bool) (r : BitVec w) :
    toPoly (bits.foldl (crcBit g) r) = (toPoly r * X ^ bits.length + bitsPoly bits * X ^ w) %ₘ generator g := by
  rw [← modByMonic_eq_of_dvd_sub (generator_monic g) (generator_dvd_foldl_crcBit_sub g bits r),
    toPoly_modByMonic_generator]

/-- The form for one byte that R111 (a) and R131 (a) share. -/
theorem toPoly_foldl_crcBit_byte {w : Nat} (g r : BitVec w) (b : Byte) :
    toPoly ((bitsMsbFirst b).foldl (crcBit g) r) = (toPoly r * X ^ 8 + toPoly b * X ^ w) %ₘ generator g := by
  rw [toPoly_foldl_crcBit, bitsPoly_bitsMsbFirst]
  rfl

/-! The two units. -/

/-- The generator the source writes `0x89`. -/
theorem generator_crc7 : generator 0x09#7 = X ^ 7 + X ^ 3 + 1 := by
  simp [generator, toPoly, Finset.sum_range_succ]
  ring

/-- The generator the source writes `0x1021`. -/
theorem generator_crc16 : generator 0x1021#16 = X ^ 16 + X ^ 12 + X ^ 5 + 1 := by
  simp [generator, toPoly, Finset.sum_range_succ]
  ring

/-- Settles O8: the loop of R110 is the CRC loop of the generator `x^7 + x^3 + 1`. -/
theorem crc7IsThePolynomialRemainder : Obligations.Crc7IsThePolynomialRemainder := by
  intro r b
  change toPoly (crc7 r b) = (toPoly r * X ^ 8 + toPoly b * X ^ 7) %ₘ (X ^ 7 + X ^ 3 + 1)
  rw [crc7_eq_foldl_crcBit, toPoly_foldl_crcBit_byte, generator_crc7]

/-- Settles O9: the loop of R130 is the CRC loop of the generator `x^16 + x^12 + x^5 + 1`. -/
theorem crc16IsThePolynomialRemainder : Obligations.Crc16IsThePolynomialRemainder := by
  intro a b
  change toPoly (crc16 a b) = (toPoly a * X ^ 8 + toPoly b * X ^ 16) %ₘ (X ^ 16 + X ^ 12 + X ^ 5 + 1)
  rw [crc16_eq_foldl_crcBit, toPoly_foldl_crcBit_byte, generator_crc16]

end Sys2Proof.Proofs
end

section
/-!
PROOFS. The state of the three units under instructions and under the shifter (spec/10_state.md R23 to R25, R33, R40): each unit
keeps to its own registers, and which operations give a CRC register a value.
-/
namespace Sys2Proof.Proofs

open Sys2Proof.Machine Sys2Proof.Laws

/-! The folds, read as updates of an optional register. -/

@[simp] theorem foldRem_c7Rem (s : State) (b : Byte) : (s.foldRem b).c7Rem = s.c7Rem.map (crc7 · b) := by
  rcases foldRem_cases s b with ⟨r, h, e⟩ | ⟨h, e⟩ <;> simp [e, h]

@[simp] theorem foldAcc_c16Acc (s : State) (b : Byte) : (s.foldAcc b).c16Acc = s.c16Acc.map (crc16 · b) := by
  rcases foldAcc_cases s b with ⟨a, h, e⟩ | ⟨h, e⟩ <;> simp [e, h]

/-! What an operation of one unit leaves of the others (R40). -/

/-- Neither CRC unit has changed. -/
def SameCrcUnits (s t : State) : Prop := SameC7 s t ∧ SameC16 s t

theorem sameCrcUnits_refl (s : State) : SameCrcUnits s s := ⟨rfl, rfl, rfl⟩

/-- The accesses of a command unit are made of updates of the SPI unit alone. -/
theorem sameCrcUnits_keptByAccesses (u : State) : KeptByAccesses (SameCrcUnits u) where
  pace _ _ h := h
  cmd _ _ h := h
  mode _ _ _ h := h
  enqueue s b h := by simpa [SameCrcUnits, SameC7, SameC16] using h
  receive s h := by simpa [SameCrcUnits, SameC7, SameC16] using h
  shifted s _ h := by simpa [SameCrcUnits, SameC7, SameC16] using h

theorem exec_c7_frame {i : Instr} {s t : State} (hu : unitOf i = .c7) (he : exec i s = .next t) :
    SameC16 s t ∧ SameSpi s t := by
  cases i <;> simp only [unitOf, reduceCtorEq] at hu
  all_goals cases he; simp [SameC16, SameSpi]

theorem exec_c16_frame {i : Instr} {s t : State} (hu : unitOf i = .c16) (he : exec i s = .next t) :
    SameC7 s t ∧ SameSpi s t := by
  cases i <;> simp only [unitOf, reduceCtorEq] at hu
  all_goals cases he; simp [SameC7, SameSpi]

/-- A register operation of the SPI unit is one update of it; a command frame is many. -/
theorem exec_spi_frame {i : Instr} {s t : State} (hu : unitOf i = .spi) (he : exec i s = .next t) : SameCrcUnits s t := by
  by_cases hf : isFrame i = true
  · exact execFrame_keeps (sameCrcUnits_keptByAccesses s) hf he (sameCrcUnits_refl s)
  cases i <;> simp only [unitOf, isFrame, not_true, reduceCtorEq] at hu hf
  case spiDiv d => obtain ⟨-, rfl⟩ := execSpiDiv_next he; exact sameCrcUnits_refl s
  case spiCs m => obtain ⟨-, mode, -, rfl⟩ := execSpiCs_next he; exact sameCrcUnits_refl s
  all_goals cases he; simp [SameCrcUnits, SameC7, SameC16]

theorem shift_frame {s t : State} (he : shift s = .next t) : SameCrcUnits s t := by
  obtain ⟨rfl, hs⟩ := shift_next he
  exact (sameCrcUnits_keptByAccesses s).shifted s hs (sameCrcUnits_refl s)

/-- Settles O36, from the frame of each unit's operations. -/
theorem unitsShareNoState : Obligations.UnitsShareNoState :=
  ⟨fun _ _ _ he => ⟨fun hu => exec_c7_frame hu he, fun hu => exec_c16_frame hu he, fun hu => exec_spi_frame hu he⟩,
    fun _ _ he => shift_frame he⟩

/-! Which instructions write the mismatch flag, and which give a register its first value. -/

/-- The other two units cannot reach the flag, and of the C16 unit's own operations one writes it. -/
theorem exec_c16Mismatch {i : Instr} {s t : State} (he : exec i s = .next t) (hi : ∀ e, i ≠ .c16Chk e) :
    t.c16Mismatch = s.c16Mismatch := by
  cases hu : unitOf i with
  | spi => exact (exec_spi_frame hu he).2.2
  | c7 => exact (exec_c7_frame hu he).1.2
  | c16 =>
    cases i <;> simp only [unitOf, reduceCtorEq] at hu
    case c16Chk e => exact absurd rfl (hi e)
    all_goals cases he; simp

/-- Settles O35. -/
theorem onlyTheCheckWritesTheMismatchFlag : Obligations.OnlyTheCheckWritesTheMismatchFlag :=
  ⟨fun _ _ _ he hi => exec_c16Mismatch he hi, fun _ _ he => (shift_frame he).2.2⟩

/-- Without a load the remainder holds no value after an instruction where it held none: a fold of no value is none (R33). -/
theorem exec_c7Rem_none {i : Instr} {s t : State} (he : exec i s = .next t) (hi : ∀ v, i ≠ .c7Ld v)
    (hs : s.c7Rem = none) : t.c7Rem = none := by
  cases hu : unitOf i with
  | spi => exact (exec_spi_frame hu he).1.trans hs
  | c16 => exact (exec_c16_frame hu he).1.trans hs
  | c7 =>
    cases i <;> simp only [unitOf, reduceCtorEq] at hu
    case c7Ld v => exact absurd rfl (hi v)
    all_goals cases he; simp [hs]

/-- As `exec_c7Rem_none`, of the accumulator. -/
theorem exec_c16Acc_none {i : Instr} {s t : State} (he : exec i s = .next t) (hi : ∀ v, i ≠ .c16Ld v)
    (hs : s.c16Acc = none) : t.c16Acc = none := by
  cases hu : unitOf i with
  | spi => exact (exec_spi_frame hu he).2.1.trans hs
  | c7 => exact (exec_c7_frame hu he).1.1.trans hs
  | c16 =>
    cases i <;> simp only [unitOf, reduceCtorEq] at hu
    case c16Ld v => exact absurd rfl (hi v)
    all_goals cases he; simp [hs]

/-- Every CRC register that holds a value in the first state holds one in the second. -/
def HeldIn (s t : State) : Prop :=
  (s.c7Rem.isSome → t.c7Rem.isSome) ∧ (s.c16Acc.isSome → t.c16Acc.isSome)
    ∧ (s.c16Mismatch.isSome → t.c16Mismatch.isSome)

/-- No update takes a value away. -/
theorem heldIn_keptByUpdates (u : State) : KeptByUpdates (HeldIn u) where
  pace _ _ h := h
  cmd _ _ h := h
  mode _ _ _ h := h
  enqueue s b h := by simpa [HeldIn] using h
  receive s h := by simpa [HeldIn] using h
  shifted s _ h := by simpa [HeldIn] using h
  agenda _ _ h := h
  rdata _ _ h := h
  draws _ h := h
  meetU1 _ h := h
  div _ _ h := h
  rem _ _ h := ⟨fun _ => rfl, h.2⟩
  acc _ _ h := ⟨h.1, fun _ => rfl, h.2.2⟩
  mismatch _ _ h := ⟨h.1, h.2.1, fun _ => rfl⟩

/-- Settles O38: the first clause is an invariant of the updates, the others say which instruction is left. -/
theorem heldValuesStayHeld : Obligations.HeldValuesStayHeld := by
  refine ⟨fun s t he => step_keeps (heldIn_keptByUpdates s) he ⟨id, id, id⟩, fun i s t he => ⟨?_, ?_, ?_⟩,
    fun s t he => shift_frame he⟩
  · intro hs ht
    by_contra hi
    simp [exec_c7Rem_none he (not_exists.1 hi) hs] at ht
  · intro hs ht
    by_contra hi
    simp [exec_c16Acc_none he (not_exists.1 hi) hs] at ht
  · intro hs ht
    by_contra hi
    simp [exec_c16Mismatch he (not_exists.1 hi), hs] at ht

/-! What a CRC operation returns, seen from two states that agree on its unit. -/

theorem remBits_congr {s₁ s₂ : State} (h : SameC7 s₁ s₂) (hd : s₁.draws = s₂.draws) : remBits s₁ = remBits s₂ := by
  rw [remBits, remBits, hd, h]

theorem accBits_congr {s₁ s₂ : State} (h : SameC16 s₁ s₂) (hd : s₁.draws = s₂.draws) : accBits s₁ = accBits s₂ := by
  rw [accBits, accBits, hd, h.1]

theorem mismatchBit_congr {s₁ s₂ : State} (h : SameC16 s₁ s₂) (hd : s₁.draws = s₂.draws) :
    mismatchBit s₁ = mismatchBit s₂ := by
  rw [mismatchBit, mismatchBit, hd, h.2]

section TwoRuns

variable {i : Instr} {s₁ s₂ t₁ t₂ : State} (he₁ : exec i s₁ = .next t₁) (he₂ : exec i s₂ = .next t₂)
  (hd : s₁.draws = s₂.draws) (hr : s₁.rdata = s₂.rdata)
include he₁ he₂ hd hr

theorem exec_c7_congr (hu : unitOf i = .c7) (h : SameC7 s₁ s₂) : SameC7 t₁ t₂ ∧ t₁.rdata = t₂.rdata := by
  have hrem : s₂.c7Rem = s₁.c7Rem := h
  cases i <;> simp only [unitOf, reduceCtorEq] at hu
  all_goals cases he₁; cases he₂; simp [SameC7, hrem, hr, remBits_congr h hd]

theorem exec_c16_congr (hu : unitOf i = .c16) (h : SameC16 s₁ s₂) : SameC16 t₁ t₂ ∧ t₁.rdata = t₂.rdata := by
  have ⟨hacc, hflag⟩ := h
  cases i <;> simp only [unitOf, reduceCtorEq] at hu
  all_goals cases he₁; cases he₂; simp [SameC16, hacc, hflag, hr, accBits_congr h hd, mismatchBit_congr h hd]

end TwoRuns

/-- Settles O37. -/
theorem unitResultsDependOnTheirOwnUnitOnly : Obligations.UnitResultsDependOnTheirOwnUnitOnly :=
  fun _ _ _ _ _ he₁ he₂ hd hr => ⟨exec_c7_congr he₁ he₂ hd hr, exec_c16_congr he₁ he₂ hd hr⟩

end Sys2Proof.Proofs
end

section
/-!
PROOFS. The SPI unit along a run (spec/10_state.md R28, R30, R31, R34, R37; spec/42_spi.md R154, R167): its invariant, and its
wire trace, which only grows.
-/
namespace Sys2Proof.Proofs

open Sys2Proof.Machine Sys2Proof.Laws

/-! The queues and the trace under the operations that move bytes. -/

@[simp] theorem receive_rxq (s : State) : s.receive.rxq = s.rxq.tail := by
  rcases receive_cases s with ⟨h, e⟩ | ⟨r, rest, h, e⟩ <;> simp [e, h]

/-- A read moves the oldest byte from the queue to what was returned, or moves none. -/
theorem receive_taken_append_rxq (s : State) : s.receive.taken ++ s.receive.rxq = s.taken ++ s.rxq := by
  rcases receive_cases s with ⟨-, e⟩ | ⟨r, rest, h, e⟩ <;> rw [e]
  simp [h]

@[simp] theorem shifted_txq (s : State) : s.shifted.txq = s.txq.tail := by
  rcases shifted_cases s with ⟨h, e⟩ | ⟨t, rest, -, e⟩ <;> rw [e]
  · simp [h]
  · rfl

/-- Whatever the treatment of U5, a full queue gets no longer. -/
theorem length_fullTxq_le (p : TxFullPolicy) (q : List Byte) (b : Byte) (hq : 0 < q.length) :
    (fullTxq p q b).length ≤ q.length := by
  cases p <;> simp [fullTxq] <;> omega

theorem length_enqueue_txq_le (s : State) (b : Byte) (h : s.txq.length ≤ Config.fifoDepth) :
    (s.enqueue b).txq.length ≤ Config.fifoDepth := by
  rcases enqueue_cases s b with ⟨hroom, e⟩ | ⟨hfull, e⟩ <;> rw [e]
  · have hne : s.txq.length ≠ Config.fifoDepth := fun hl => by simp [(txFull_iff s).2 hl] at hroom
    simp only [List.length_append, List.length_singleton]
    omega
  · have hl := (txFull_iff s).1 hfull
    exact (length_fullTxq_le _ _ b (hl ▸ fifoDepth_pos)).trans h

theorem length_shifted_rxq_le (s : State) (hs : s.txq = [] ∨ rxFull s = false) (h : s.rxq.length ≤ Config.fifoDepth) :
    s.shifted.rxq.length ≤ Config.fifoDepth := by
  rcases shifted_cases s with ⟨-, e⟩ | ⟨t, rest, hq, e⟩ <;> rw [e]
  · exact h
  · have hroom : rxFull s = false := hs.resolve_left (by simp [hq])
    have hne : s.rxq.length ≠ Config.fifoDepth := fun hl => by simp [(rxFull_iff s).2 hl] at hroom
    simp only [exchangeByte_rxq, List.length_append, List.length_singleton]
    omega

/-! The invariant of the SPI unit: each of its three parts is kept by itself. -/

/-- The fields that the invariant of the SPI unit and the history of its wire speak of are the same in both states. -/
structure SameTransfers (s t : State) : Prop where
  mode : t.mode = s.mode
  txq : t.txq = s.txq
  rxq : t.rxq = s.rxq
  wire : t.wire = s.wire
  sent : t.sent = s.sent
  taken : t.taken = s.taken
  txLost : t.txLost = s.txLost

/-- A property of those fields is kept by every update that does not write them: four are left to look at. -/
theorem keptByUpdates_of_transfers {P : State → Prop} (same : ∀ s t, SameTransfers s t → P s → P t)
    (mode : ∀ s m, P s → P (s.setMode m)) (enqueue : ∀ s b, P s → P (s.enqueue b)) (receive : ∀ s, P s → P s.receive)
    (shifted : ∀ s, s.txq = [] ∨ rxFull s = false → P s → P s.shifted) : KeptByUpdates P where
  mode s m _ h := mode s m h
  enqueue := enqueue
  receive := receive
  shifted := shifted
  pace _ _ := same _ _ ⟨rfl, rfl, rfl, rfl, rfl, rfl, rfl⟩
  cmd _ _ := same _ _ ⟨rfl, rfl, rfl, rfl, rfl, rfl, rfl⟩
  agenda _ _ := same _ _ ⟨rfl, rfl, rfl, rfl, rfl, rfl, rfl⟩
  rdata _ _ := same _ _ ⟨rfl, rfl, rfl, rfl, rfl, rfl, rfl⟩
  draws _ := same _ _ ⟨rfl, rfl, rfl, rfl, rfl, rfl, rfl⟩
  meetU1 _ := same _ _ ⟨rfl, rfl, rfl, rfl, rfl, rfl, rfl⟩
  rem _ _ := same _ _ ⟨rfl, rfl, rfl, rfl, rfl, rfl, rfl⟩
  acc _ _ := same _ _ ⟨rfl, rfl, rfl, rfl, rfl, rfl, rfl⟩
  mismatch _ _ := same _ _ ⟨rfl, rfl, rfl, rfl, rfl, rfl, rfl⟩
  div _ _ := same _ _ ⟨rfl, rfl, rfl, rfl, rfl, rfl, rfl⟩

theorem queuesBounded_keptByUpdates : KeptByUpdates QueuesBounded := by
  refine keptByUpdates_of_transfers ?same ?mode ?enqueue ?receive ?shifted
  case same => exact fun s t e ⟨ht, hr⟩ => ⟨e.txq ▸ ht, e.rxq ▸ hr⟩
  case mode => exact fun s m h => h
  case enqueue => exact fun s b ⟨ht, hr⟩ => ⟨length_enqueue_txq_le s b ht, by simpa using hr⟩
  case receive =>
    intro s ⟨ht, hr⟩
    simp only [QueuesBounded, receive_txq, receive_rxq, List.length_tail]
    omega
  case shifted =>
    intro s hs ⟨ht, hr⟩
    refine ⟨?_, length_shifted_rxq_le s hs hr⟩
    simp only [shifted_txq, List.length_tail]
    omega

@[simp] theorem wireSent_singleton_mode (m : CsMode) : wireSent [.mode m] = [] := rfl

@[simp] theorem wireGot_singleton_mode (m : CsMode) : wireGot [.mode m] = [] := rfl

@[simp] theorem wireSent_singleton_exchange (cs : CsLevel) (t r : Byte) : wireSent [.exchange cs t r] = [t] := rfl

@[simp] theorem wireGot_singleton_exchange (cs : CsLevel) (t r : Byte) : wireGot [.exchange cs t r] = [r] := rfl

/-- A byte written goes to the tail of the queue, unless the queue was full and the ghost flag is now set. -/
theorem enqueue_sent_accounting (s : State) (b : Byte) (h : s.txLost = false → s.sent = wireSent s.wire ++ s.txq) :
    (s.enqueue b).txLost = false → (s.enqueue b).sent = wireSent s.wire ++ (s.enqueue b).txq := by
  rcases enqueue_cases s b with ⟨-, e⟩ | ⟨-, e⟩ <;> rw [e]
  · intro hl
    simp [h hl]
  · simp

theorem fifoAccounting_keptByUpdates : KeptByUpdates FifoAccounting := by
  refine keptByUpdates_of_transfers ?same ?mode ?enqueue ?receive ?shifted
  case same =>
    intro s t e h
    simpa only [FifoAccounting, e.txLost, e.sent, e.wire, e.txq, e.taken, e.rxq] using h
  case mode =>
    intro s m h
    simpa [FifoAccounting] using h
  case enqueue =>
    intro s b ⟨hsent, hgot⟩
    simpa only [FifoAccounting, enqueue_wire, enqueue_taken, enqueue_rxq] using ⟨enqueue_sent_accounting s b hsent, hgot⟩
  case receive =>
    intro s h
    rw [FifoAccounting, receive_taken_append_rxq]
    simpa only [FifoAccounting, receive_txLost, receive_sent, receive_wire, receive_txq] using h
  case shifted =>
    intro s _ ⟨hsent, hgot⟩
    rcases shifted_cases s with ⟨-, e⟩ | ⟨t, rest, hq, e⟩ <;> rw [e]
    · exact ⟨hsent, hgot⟩
    · exact ⟨by simpa [hq] using hsent, by simp [hgot]⟩

theorem wireTellsMode_keptByUpdates : KeptByUpdates WireTellsMode := by
  refine keptByUpdates_of_transfers ?same ?mode ?enqueue ?receive ?shifted
  case same =>
    intro s t e h
    simpa only [WireTellsMode, e.wire, e.mode] using h
  case mode =>
    intro s m ⟨_, hlevels⟩
    simpa [WireTellsMode, levelsFollowModes_append, LevelsFollowModes, wireMode] using hlevels
  case enqueue =>
    intro s b h
    simpa only [WireTellsMode, enqueue_wire, enqueue_mode] using h
  case receive =>
    intro s h
    simpa only [WireTellsMode, receive_wire, receive_mode] using h
  case shifted =>
    intro s _ ⟨hmode, hlevels⟩
    rcases shifted_cases s with ⟨-, e⟩ | ⟨t, rest, -, e⟩ <;> rw [e]
    · exact ⟨hmode, hlevels⟩
    · refine ⟨by rw [exchangeByte_wire, wireMode_append]; exact hmode, ?_⟩
      rw [exchangeByte_wire, levelsFollowModes_append, hmode]
      exact ⟨hlevels, rfl, trivial⟩

/-- Settles O41: every step keeps each of the three parts. -/
theorem spiInvariantKeptByEveryStep : Obligations.SpiInvariantKeptByEveryStep :=
  fun _ _ ⟨hbound, hfifo, hwire⟩ he =>
    ⟨step_keeps queuesBounded_keptByUpdates he hbound, step_keeps fifoAccounting_keptByUpdates he hfifo,
      step_keeps wireTellsMode_keptByUpdates he hwire⟩

/-! The history of the wire: what is appended tells the mode, and the line follows it one event at a time. -/

/-- Since the first state events were only appended to the wire, and the mode is what they make of the mode then. -/
def WireAppended (s t : State) : Prop := ∃ ev, t.wire = s.wire ++ ev ∧ t.mode = wireMode s.mode ev

theorem wireAppended_refl (s : State) : WireAppended s s := ⟨[], by simp, rfl⟩

/-- One more event, with the mode it leaves. -/
theorem wireAppended_concat {u s t : State} {e : WireEvent} (h : WireAppended u s) (hw : t.wire = s.wire ++ [e])
    (hm : t.mode = wireMode s.mode [e]) : WireAppended u t := by
  obtain ⟨ev, hwire, hmode⟩ := h
  exact ⟨ev ++ [e], by rw [hw, hwire, List.append_assoc], by rw [hm, hmode, wireMode_append]⟩

theorem wireAppended_keptByUpdates (u : State) : KeptByUpdates (WireAppended u) := by
  refine keptByUpdates_of_transfers ?same ?mode ?enqueue ?receive ?shifted
  case same =>
    intro s t e h
    simpa only [WireAppended, e.wire, e.mode] using h
  case mode => exact fun s m h => wireAppended_concat h (setMode_wire s m) rfl
  case enqueue =>
    intro s b h
    simpa only [WireAppended, enqueue_wire, enqueue_mode] using h
  case receive =>
    intro s h
    simpa only [WireAppended, receive_wire, receive_mode] using h
  case shifted =>
    intro s _ h
    rcases shifted_cases s with ⟨-, e⟩ | ⟨t, rest, -, e⟩ <;> rw [e]
    · exact h
    · exact wireAppended_concat h (exchangeByte_wire s t) rfl

/-- The line's own record of the mode is the mode the trace tells. -/
theorem foldl_csLineStep (m₀ : CsMode) (l₀ : CsLevel) (wire : List WireEvent) :
    wire.foldl csLineStep (m₀, l₀) = (wireMode m₀ wire, csLine m₀ l₀ wire) := by
  refine Prod.ext ?_ rfl
  induction wire generalizing m₀ l₀ with
  | nil => rfl
  | cons e wire ih =>
    cases e with
    | mode m => cases m <;> exact ih ..
    | exchange cs a b => exact ih ..

/-- The line after one more event, from the mode and the line before it. -/
theorem csLine_concat (m₀ : CsMode) (l₀ : CsLevel) (wire : List WireEvent) (e : WireEvent) :
    csLine m₀ l₀ (wire ++ [e]) = (csLineStep (wireMode m₀ wire, csLine m₀ l₀ wire) e).2 := by
  rw [← foldl_csLineStep, csLine, List.foldl_append]
  rfl

/-- After an exchange the line is asserted exactly in HOLD (R154). -/
theorem csLine_concat_exchange (m₀ : CsMode) (l₀ : CsLevel) (wire : List WireEvent) (cs : CsLevel) (a b : Byte) :
    csLine m₀ l₀ (wire ++ [.exchange cs a b]) = if wireMode m₀ wire = .hold then .asserted else .deasserted :=
  csLine_concat ..

/-- After a write of the mode the line is asserted only in HOLD, where it was before or where U8's parameter asserts it. -/
theorem csLine_concat_mode (m₀ : CsMode) (l₀ : CsLevel) (wire : List WireEvent) (m : CsMode) :
    csLine m₀ l₀ (wire ++ [.mode m]) =
      if m = .hold ∧ (csLine m₀ l₀ wire = .asserted ∨ Config.holdAssertsAtWrite = true) then .asserted else .deasserted := by
  rw [csLine_concat]
  cases m <;> simp [csLineStep]

/-- An event that leaves a mode other than HOLD leaves the line deasserted. -/
theorem csLine_concat_deasserted (m₀ : CsMode) (l₀ : CsLevel) (wire : List WireEvent) (e : WireEvent)
    (h : wireMode m₀ (wire ++ [e]) ≠ .hold) : csLine m₀ l₀ (wire ++ [e]) = .deasserted := by
  rw [wireMode_append] at h
  cases e with
  | exchange cs a b => rw [csLine_concat_exchange]; exact if_neg h
  | mode m => rw [csLine_concat_mode]; exact if_neg fun hm => h hm.1

/-- Settles O40: the appended events are an invariant of the updates, and the line is read off one event at a time. -/
theorem wireHistoryIsNeverRewritten : Obligations.WireHistoryIsNeverRewritten := by
  intro s t he
  obtain ⟨ev, hwire, hmode⟩ := step_keeps (wireAppended_keptByUpdates s) he (wireAppended_refl s)
  refine ⟨ev, hwire, fun m₀ l₀ hm₀ => ⟨fun p cs a b _ => ?_, fun p m _ => csLine_concat_mode m₀ l₀ _ m, fun ht hne => ?_⟩⟩
  · rw [csLine_concat_exchange, wireMode_append, hm₀]
  · obtain ⟨p, e, rfl⟩ := ev.eq_nil_or_concat'.resolve_left hne
    rw [hwire, ← List.append_assoc]
    refine csLine_concat_deasserted m₀ l₀ _ e ?_
    rwa [List.append_assoc, wireMode_append, hm₀, ← hmode]

end Sys2Proof.Proofs
end

section
/-!
PROOFS. From what the host issues to the step of its instruction (spec/20_memory.md R51, R60, R62, R64; spec/30_encoding.md R80):
the windows, the transaction word of a bus access, and the step of a word that is issued in either form.
-/
namespace Sys2Proof.Proofs

open Sys2Proof.Machine Sys2Proof.Laws

/-! The windows: each unit's answer where no window tested before its own has the address. -/

theorem inWindow_iff (base a : Nat) : inWindow base a = true ↔ base ≤ a ∧ a < base + 0x100 := by
  simp [inWindow]

section Windows

variable {b : Bases} {a : Nat}

theorem windowOf_of_spi (h : inWindow b.spi a = true) : windowOf b a = some (0#2, BitVec.ofNat 8 (a - b.spi)) := by
  simp [windowOf, h]

theorem windowOf_of_c7 (hspi : ¬ inWindow b.spi a = true) (h : inWindow b.c7 a = true) :
    windowOf b a = some (1#2, BitVec.ofNat 8 (a - b.c7)) := by
  simp [windowOf, hspi, h]

theorem windowOf_of_c16 (hspi : ¬ inWindow b.spi a = true) (hc7 : ¬ inWindow b.c7 a = true)
    (h : inWindow b.c16 a = true) : windowOf b a = some (2#2, BitVec.ofNat 8 (a - b.c16)) := by
  simp [windowOf, hspi, hc7, h]

theorem windowOf_of_outside (hspi : ¬ inWindow b.spi a = true) (hc7 : ¬ inWindow b.c7 a = true)
    (hc16 : ¬ inWindow b.c16 a = true) : windowOf b a = none := by
  simp [windowOf, hspi, hc7, hc16]

end Windows

/-- Settles O6: in disjoint windows an address of one unit is of no unit tested before it. -/
theorem addressReachesUnitAtOffset : Obligations.AddressReachesUnitAtOffset := by
  intro b a hdisjoint
  obtain ⟨hspi_c7, hspi_c16, hc7_c16⟩ := hdisjoint a
  simp only [← and_imp, ← inWindow_iff]
  refine ⟨windowOf_of_spi, fun h => ?c7, fun h => ?c16, fun ⟨hspi, hc7, hc16⟩ => ?outside⟩
  case c7 => exact windowOf_of_c7 (fun hspi => hspi_c7 ⟨hspi, h⟩) h
  case c16 => exact windowOf_of_c16 (fun hspi => hspi_c16 ⟨hspi, h⟩) (fun hc7 => hc7_c16 ⟨hc7, h⟩) h
  case outside => exact windowOf_of_outside hspi hc7 hc16

/-! The transaction word of a bus access (R60, R80). -/

/-- What the address decode makes of a bus access: its word, or the first of three reasons to refuse it. -/
theorem busWord_cases (b : Bases) (x : BusAccess) :
    (windowOf b x.addr = none ∧ busWord b x = .error .outsideWindows) ∨
    ∃ unit off, windowOf b x.addr = some (unit, off) ∧
      ((x.width ≠ .w32 ∧ busWord b x = .error .accessWidth) ∨
      (x.width = .w32 ∧ (x.addr % 4 ≠ 0 ∨ off.toNat % 4 ≠ 0) ∧ busWord b x = .error .misalignedAccess) ∨
      (x.width = .w32 ∧ x.addr % 4 = 0 ∧ off.toNat % 4 = 0 ∧ busWord b x = .ok (regWord x.we unit off x.wdata))) := by
  unfold busWord
  split <;> rename_i hwindow
  · exact .inl ⟨hwindow, rfl⟩
  · refine .inr ⟨_, _, hwindow, ?_⟩
    split_ifs with hwidth halign
    · exact .inl ⟨hwidth, rfl⟩
    · exact .inr (.inl ⟨not_not.1 hwidth, halign, rfl⟩)
    · obtain ⟨haddr, hoff⟩ := not_or.1 halign
      exact .inr (.inr ⟨not_not.1 hwidth, not_not.1 haddr, not_not.1 hoff, rfl⟩)

/-- An aligned 32-bit access inside a window has the word of its unit and offset. -/
theorem busWord_of_aligned {b : Bases} {x : BusAccess} {unit : BitVec 2} {off : BitVec 8}
    (hwindow : windowOf b x.addr = some (unit, off)) (hwidth : x.width = .w32) (haddr : x.addr % 4 = 0)
    (hoff : off.toNat % 4 = 0) : busWord b x = .ok (regWord x.we unit off x.wdata) := by
  simp [busWord, hwindow, hwidth, haddr, hoff]

/-- Settles O7: of the four cases of the address decode one answers with a word. -/
theorem onlyAlignedWordAccessesHaveAMeaning : Obligations.OnlyAlignedWordAccessesHaveAMeaning := by
  refine fun b x w => ⟨fun hword => ?_, ?_⟩
  · rcases busWord_cases b x with ⟨-, e⟩ | ⟨unit, off, hwindow, ⟨-, e⟩ | ⟨-, -, e⟩ | ⟨hwidth, haddr, hoff, e⟩⟩ <;>
      rw [e] at hword <;> cases hword
    exact ⟨unit, off, hwindow, hwidth, haddr, hoff, rfl⟩
  · rintro ⟨unit, off, hwindow, hwidth, haddr, hoff, rfl⟩
    exact busWord_of_aligned hwindow hwidth haddr hoff

/-! A turn of the host (R62, R64): issuing an item is issuing its word. -/

theorem fetch_of_itemWord_ok {item : HostItem} {w : HostWord} (hw : itemWord item = .ok w) :
    fetch item = fetch (.word w) := by
  unfold fetch
  rw [hw]
  rfl

theorem fetch_of_itemWord_error {item : HostItem} {r : Refusal} (hw : itemWord item = .error r) :
    fetch item = .error r := by
  rw [fetch, hw]

section HostTurn

variable {s : State} {item : HostItem} {rest : List Turn} (ha : s.agenda = .host item :: rest)
include ha

theorem step_of_fetch_ok {i : Instr} (hf : fetch item = .ok i) : step s = exec i (s.setAgenda rest) := by
  simp only [step, ha, hf]

theorem step_of_fetch_error {r : Refusal} (hf : fetch item = .error r) : step s = .refused r := by
  simp only [step, ha, hf]

/-- The step of an item that has a word: that of the instruction the word decodes to, or the decoder's refusal. -/
theorem step_of_itemWord_ok {w : HostWord} (hw : itemWord item = .ok w) :
    (∀ i, decode w = .ok i → step s = exec i (s.setAgenda rest))
      ∧ (∀ why, decode w = .error why → step s = .refused (.reservedWord why)) := by
  have hfetch : fetch item = fetch (.word w) := fetch_of_itemWord_ok hw
  refine ⟨fun i hi => step_of_fetch_ok ha ?_, fun why hwhy => step_of_fetch_error ha ?_⟩
  · rw [hfetch, fetch_word, hi]
  · rw [hfetch, fetch_word, hwhy]

end HostTurn

/-- Settles O5: a word and a bus access that has one are the same item to the step; the address decode refuses the rest. -/
theorem stepRunsTheDecodedInstruction : Obligations.StepRunsTheDecodedInstruction :=
  ⟨fun _ _ _ ha => step_of_itemWord_ok ha rfl, fun _ _ _ ha =>
    ⟨fun _ hw => step_of_itemWord_ok ha hw, fun _ hr => step_of_fetch_error ha (fetch_of_itemWord_error hr)⟩⟩

end Sys2Proof.Proofs
end

section
/-!
PROOFS. The words the host issues (spec/30_encoding.md R80, R82, R83, R92, R95, R100, R102): the rows of R100 as the decoder
finds them, the fields of a command frame, the round trips of decoder and encoder, and the reserved triples.
-/
namespace Sys2Proof.Proofs

open Sys2Proof.Machine Sys2Proof.Laws

/-! The rows of R100. -/

theorem selects_iff (r : RegRow) (we : Bool) (unit : BitVec 2) (off : BitVec 8) :
    r.selects we unit off = true ↔ r.we = we ∧ r.unit = unit ∧ r.off = off := by
  simp [RegRow.selects, and_assoc]

/-- The lookup of R82: a row of the triple builds the instruction, or no row has the triple and it is reserved. -/
theorem decodeReg_cases (we : Bool) (unit : BitVec 2) (off : BitVec 8) (d : Word) :
    (∃ r ∈ regRows, r.selects we unit off = true ∧ decodeReg we unit off d = .ok (r.build d)) ∨
    ((∀ r ∈ regRows, ¬ r.selects we unit off = true) ∧
      decodeReg we unit off d = .error (reservedReason we unit off)) := by
  unfold decodeReg
  split <;> rename_i hfind
  · have hselects := List.find?_some (p := fun r : RegRow => r.selects we unit off) hfind
    exact .inl ⟨_, List.mem_of_find?_eq_some hfind, hselects, rfl⟩
  · exact .inr ⟨List.find?_eq_none.1 hfind, rfl⟩

/-- The rows build register operations, no command frame. -/
theorem isFrame_build : ∀ r ∈ regRows, ∀ d, isFrame (r.build d) = false := by
  simp only [regRows, List.forall_mem_cons]
  simp [isFrame]

/-! The bits of a transaction word that decoding reads (R82, R83). -/

section UsedBits

variable {we : Bool} {unit : BitVec 2} {off : BitVec 8}

theorem regWord_and_usedBits (d mask : Word) :
    regWord we unit off d &&& (regWord true 3 0xFF mask ||| 0xF80000000000) = regWord we unit off (d &&& mask) := by
  have hused : regWord true 3 0xFF mask ||| 0xF80000000000 = BitVec.allOnes 16 ++ mask :=
    (BitVec.or_append (x₁ := 0x07FF#16) (x₂ := 0xF800#16) (y₂ := 0#32)).trans (congrArg (_ ++ ·) BitVec.or_zero)
  rw [hused]
  exact BitVec.and_append.trans (congrArg (· ++ (d &&& mask)) BitVec.and_allOnes)

/-- An operand of `n` bits, zero-extended, is the write data with the other bits cleared. -/
theorem regWord_operand (n : Nat) (d : Word) :
    regWord we unit off ((d.setWidth n).setWidth 32) =
      regWord we unit off d &&& (regWord true 3 0xFF ((BitVec.allOnes n).setWidth 32) ||| 0xF80000000000) := by
  rw [regWord_and_usedBits]
  congr 1
  ext i hi
  simp [hi, Bool.and_comm]

theorem regWord_noOperand (d : Word) :
    regWord we unit off 0 = regWord we unit off d &&& (regWord true 3 0xFF 0 ||| 0xF80000000000) := by
  rw [regWord_and_usedBits]
  exact congrArg _ BitVec.and_zero.symm

end UsedBits

/-- What a row builds is encoded as the word it was built from, up to the ignored bits: for each row of R100 in its order, how
many bits of the write data its operand takes. -/
theorem encode_build : ∀ r ∈ regRows, ∀ d,
    encode (r.build d) = regWord r.we r.unit r.off d &&& usedBits (r.build d) := by
  simp only [regRows, List.forall_mem_cons]
  exact ⟨regWord_operand 12, regWord_noOperand, regWord_operand 2, regWord_noOperand, regWord_operand 8, regWord_noOperand,
    regWord_noOperand, regWord_operand 7, regWord_noOperand, regWord_operand 8, regWord_noOperand, regWord_operand 16,
    regWord_noOperand, regWord_operand 8, regWord_operand 16, regWord_noOperand, nofun⟩

/-- A word with five zeros on top is the transaction word of its fields (R80). -/
theorem eq_regWord {w : HostWord} (h : w.extractLsb' 43 5 = 0#5) :
    w = regWord (w.getLsbD 42) (w.extractLsb' 40 2) (w.extractLsb' 32 8) (w.extractLsb' 0 32) := by
  have hwe : BitVec.ofBool (w.getLsbD 42) = w.extractLsb' 42 1 := by
    ext i hi
    simp [show i = 0 by omega]
  rw [regWord, hwe, ← h]
  simp only [BitVec.extractLsb'_append_extractLsb'_eq_extractLsb', BitVec.extractLsb'_eq_self]

/-! The fields of a command frame (R92). -/

section FrameWord

variable (index : BitVec 6) (arg : BitVec 32) (crc : BitVec 7) {start len : Nat}

theorem frameWord_eq : frameWord index arg crc = 1#2 ++ index ++ arg ++ crcbyte crc := BitVec.append_assoc

theorem extractLsb'_frameWord_top (h : 40 ≤ start) :
    (frameWord index arg crc).extractLsb' start len = (1#2 ++ index).extractLsb' (start - 40) len := by
  rw [frameWord_eq, show start - 40 = start - 8 - 32 by omega]
  exact (BitVec.extractLsb'_append_eq_of_le (by omega)).trans (BitVec.extractLsb'_append_eq_of_le (by omega))

theorem extractLsb'_frameWord_arg (h : 8 ≤ start) (h' : start - 8 + len ≤ 32) :
    (frameWord index arg crc).extractLsb' start len = arg.extractLsb' (start - 8) len := by
  rw [frameWord_eq]
  exact (BitVec.extractLsb'_append_eq_of_le h).trans (BitVec.extractLsb'_append_eq_of_add_le h')

theorem extractLsb'_frameWord_low (h : start + len ≤ 8) :
    (frameWord index arg crc).extractLsb' start len = (crcbyte crc).extractLsb' start len := by
  rw [frameWord_eq]
  exact BitVec.extractLsb'_append_eq_of_add_le h

/-- The bytes of a frame: those that its CRC covers, then the CRC byte. -/
theorem frameWord_bytes :
    [(frameWord index arg crc).extractLsb' 40 8, (frameWord index arg crc).extractLsb' 32 8,
      (frameWord index arg crc).extractLsb' 24 8, (frameWord index arg crc).extractLsb' 16 8,
      (frameWord index arg crc).extractLsb' 8 8, (frameWord index arg crc).extractLsb' 0 8] =
    frameBody index arg ++ [crcbyte crc] := by
  simp [frameBody, extractLsb'_frameWord_top, extractLsb'_frameWord_arg, extractLsb'_frameWord_low]

/-- A frame decodes as a frame: its two top bits are 01, and so the five bits above a transaction word are not all zero. -/
theorem decode_frameWord : decode (frameWord index arg crc) = decodeFrame (frameWord index arg crc) := by
  have hprefix : ∀ index : BitVec 6, (1#2 ++ index).extractLsb' 3 5 ≠ 0#5 := by decide
  have hpattern : ∀ index : BitVec 6, (1#2 ++ index).extractLsb' 6 2 = 1#2 := by decide
  rw [decode, extractLsb'_frameWord_top (start := 43) _ _ _ (by decide), if_neg (hprefix index),
    extractLsb'_frameWord_top (start := 46) _ _ _ (by decide), if_pos (hpattern index)]

end FrameWord

/-! The eight frames (R95). -/

theorem encode_of_mem_fixedFrames : ∀ p ∈ fixedFrames, encode p.2 = p.1 := by decide

theorem usedBits_of_mem_fixedFrames : ∀ p ∈ fixedFrames, usedBits p.2 = BitVec.allOnes 48 := by decide

/-- No fixed frame has the first byte of CMD18. -/
theorem top_of_mem_fixedFrames : ∀ p ∈ fixedFrames, p.1.extractLsb' 40 8 ≠ 0x52#8 := by decide

/-- A word with the first byte and the end bit of CMD18 is the CMD18 frame of its fields. -/
theorem eq_frameWord_cmd18 {w : HostWord} (htop : w.extractLsb' 40 8 = 0x52#8) (hend : w.extractLsb' 0 1 = 1#1) :
    w = frameWord 18 (w.extractLsb' 8 32) (w.extractLsb' 1 7) := by
  change w = 0x52#8 ++ w.extractLsb' 8 32 ++ w.extractLsb' 1 7 ++ 1#1
  rw [← htop, ← hend]
  simp only [BitVec.extractLsb'_append_extractLsb'_eq_extractLsb', BitVec.extractLsb'_eq_self]

theorem decode_cmd18 (lba : BitVec 32) (crc : BitVec 7) : decode (frameWord 18 lba crc) = .ok (.cmd18 lba crc) := by
  have htop : (frameWord 18 lba crc).extractLsb' 40 8 = 0x52#8 := extractLsb'_frameWord_top _ _ _ le_rfl
  have hlba : (frameWord 18 lba crc).extractLsb' 8 32 = lba := by
    simp [extractLsb'_frameWord_arg]
  have hcrc : (frameWord 18 lba crc).extractLsb' 1 7 = crc :=
    (extractLsb'_frameWord_low _ _ _ le_rfl).trans BitVec.extractLsb'_append_eq_left
  have hend : (frameWord 18 lba crc).extractLsb' 0 1 = 1#1 :=
    (extractLsb'_frameWord_low _ _ _ (by decide)).trans BitVec.extractLsb'_append_eq_right
  have hfixed : fixedFrames.find? (fun p => p.1 == frameWord 18 lba crc) = none := by
    rw [List.find?_eq_none]
    intro p hp heq
    exact top_of_mem_fixedFrames p hp (beq_iff_eq.1 heq ▸ htop)
  simp only [decode_frameWord, decodeFrame, hfixed, htop, hend, hlba, hcrc, and_self, if_true]

/-- What a word that decodes as a frame is: a fixed frame, or the CMD18 frame of its instruction. -/
theorem decodeFrame_eq_ok {w : HostWord} {i : Instr} (h : decodeFrame w = .ok i) :
    (w, i) ∈ fixedFrames ∨ ∃ lba crc, w = frameWord 18 lba crc ∧ i = .cmd18 lba crc := by
  unfold decodeFrame at h
  split at h <;> rename_i hfind
  · cases h
    have heq := List.find?_some hfind
    exact .inl (beq_iff_eq.1 heq ▸ List.mem_of_find?_eq_some hfind)
  · split_ifs at h with hcmd18
    cases h
    obtain ⟨htop, hend⟩ := hcmd18
    exact .inr ⟨_, _, eq_frameWord_cmd18 htop hend, rfl⟩

/-- What a word that decodes is: the transaction word of a row, or a frame. -/
theorem decode_eq_ok {w : HostWord} {i : Instr} (h : decode w = .ok i) :
    (∃ r ∈ regRows, ∃ d, w = regWord r.we r.unit r.off d ∧ i = r.build d) ∨ decodeFrame w = .ok i := by
  unfold decode at h
  split_ifs at h with hprefix
  · rcases decodeReg_cases (w.getLsbD 42) (w.extractLsb' 40 2) (w.extractLsb' 32 8) (w.extractLsb' 0 32) with
      ⟨r, hr, hselects, hok⟩ | ⟨-, herror⟩
    · obtain ⟨hwe, hunit, hoff⟩ := (selects_iff ..).1 hselects
      refine .inl ⟨r, hr, w.extractLsb' 0 32, ?_, Except.ok.inj (h.symm.trans hok)⟩
      rw [hwe, hunit, hoff]
      exact eq_regWord hprefix
    · rw [herror] at h
      cases h
  · exact .inr h

/-! The two round trips. -/

/-- An operand of a write goes out zero-extended, and its row takes it back from the low bits (R83). -/
theorem decode_write {n : Nat} {unit : BitVec 2} {off : BitVec 8} (build : BitVec n → Instr) (hn : n ≤ 32)
    (hrow : ∀ d, decodeReg true unit off d = .ok (build (d.setWidth n))) (v : BitVec n) :
    decode (regWord true unit off (v.setWidth 32)) = .ok (build v) := by
  rw [decode_regWord, hrow, BitVec.setWidth_setWidth_of_le v hn, BitVec.setWidth_eq]

/-- A register operation: its triple selects its row. -/
theorem decode_encode_regOp {i : Instr} (hi : isFrame i = false) : decode (encode i) = .ok i := by
  cases i <;> simp only [isFrame, Bool.true_eq_false] at hi
  case spiDiv d => exact decode_write .spiDiv (by decide) (fun _ => rfl) d
  case spiCs m => exact decode_write .spiCs (by decide) (fun _ => rfl) m
  case spiTx b => exact decode_write .spiTx (by decide) (fun _ => rfl) b
  case c7Ld v => exact decode_write .c7Ld (by decide) (fun _ => rfl) v
  case c7Fold b => exact decode_write .c7Fold (by decide) (fun _ => rfl) b
  case c16Ld v => exact decode_write .c16Ld (by decide) (fun _ => rfl) v
  case c16Fold b => exact decode_write .c16Fold (by decide) (fun _ => rfl) b
  case c16Chk e => exact decode_write .c16Chk (by decide) (fun _ => rfl) e
  all_goals exact decode_regWord ..

/-- A command frame: one of the seven fixed words, or CMD18 with its two fields. -/
theorem decode_encode_frame {i : Instr} (hi : isFrame i = true) : decode (encode i) = .ok i := by
  cases i <;> simp only [isFrame, Bool.false_eq_true] at hi
  case cmd18 lba crc => exact decode_cmd18 lba crc
  all_goals decide

/-- Settles O1: the register operations by their rows, the command frames by their words. -/
theorem decodeOfEncodeIsTheInstruction : Obligations.DecodeOfEncodeIsTheInstruction := by
  intro i
  cases hi : isFrame i with
  | false => exact decode_encode_regOp hi
  | true => exact decode_encode_frame hi

/-- Settles O2: a word that decodes is a row's transaction word, of which the operand's bits are read, or a frame, of which
every bit is. -/
theorem encodeOfDecodeKeepsTheUsedBits : Obligations.EncodeOfDecodeKeepsTheUsedBits := by
  intro w i h
  rcases decode_eq_ok h with ⟨r, hr, d, rfl, rfl⟩ | hframe
  · exact encode_build r hr d
  rcases decodeFrame_eq_ok hframe with hfixed | ⟨lba, crc, rfl, rfl⟩
  · rw [encode_of_mem_fixedFrames _ hfixed, usedBits_of_mem_fixedFrames _ hfixed, BitVec.and_allOnes]
  · exact BitVec.and_allOnes.symm

/-! The reserved triples (R102). -/

/-- The cases (a) to (f) of R102. -/
def IsReservedTriple (we : Bool) (unit : BitVec 2) (off : BitVec 8) : Prop :=
  unit = 3#2 ∨ off.toNat % 4 ≠ 0
    ∨ (unit = 0#2 ∧ off ∉ [0x00#8, 0x18#8, 0x48#8, 0x4C#8])
    ∨ (unit = 1#2 ∧ off ∉ [0x00#8, 0x04#8, 0x08#8])
    ∨ (unit = 2#2 ∧ off ∉ [0x00#8, 0x04#8, 0x08#8, 0x0C#8])
    ∨ (we = true ∧ ((unit = 1#2 ∧ off = 0x08#8) ∨ (unit = 2#2 ∧ off = 0x0C#8)))
    ∨ (we = false ∧ ((unit = 1#2 ∧ off = 0x04#8) ∨ (unit = 2#2 ∧ (off = 0x04#8 ∨ off = 0x08#8))))
    ∨ (we = true ∧ unit = 0#2 ∧ off = 0x4C#8)

theorem not_isReservedTriple_of_mem : ∀ r ∈ regRows, ¬ IsReservedTriple r.we r.unit r.off := by
  unfold IsReservedTriple
  decide

/-- The registers of the SPI unit are written and read, but for `RXFIFO`, which is only read. -/
theorem exists_row_spi : ∀ we, ∀ off ∈ [0x00#8, 0x18#8, 0x48#8, 0x4C#8],
    ¬ (we = true ∧ off = 0x4C#8) → ∃ r ∈ regRows, r.selects we 0#2 off = true := by decide

/-- Of the C7 unit, `C7_BYTE` is only read and `C7_DATA` only written. -/
theorem exists_row_c7 : ∀ we, ∀ off ∈ [0x00#8, 0x04#8, 0x08#8],
    ¬ (we = true ∧ off = 0x08#8) → ¬ (we = false ∧ off = 0x04#8) → ∃ r ∈ regRows, r.selects we 1#2 off = true := by decide

/-- Of the C16 unit, `C16_STATUS` is only read, `C16_DATA` and `C16_CHECK` only written. -/
theorem exists_row_c16 : ∀ we, ∀ off ∈ [0x00#8, 0x04#8, 0x08#8, 0x0C#8],
    ¬ (we = true ∧ off = 0x0C#8) → ¬ (we = false ∧ (off = 0x04#8 ∨ off = 0x08#8)) →
      ∃ r ∈ regRows, r.selects we 2#2 off = true := by decide

/-- Every access that R102 leaves has a row: a register of the unit, in a direction that it has. -/
theorem exists_row_of_not_isReservedTriple {we : Bool} {unit : BitVec 2} {off : BitVec 8}
    (h : ¬ IsReservedTriple we unit off) : ∃ r ∈ regRows, r.selects we unit off = true := by
  simp only [IsReservedTriple, not_or, not_and_not_right] at h
  obtain ⟨hunit, -, hspi, hc7, hc16, hread, hwrite, hrx⟩ := h
  have hunits : ∀ u : BitVec 2, u = 0#2 ∨ u = 1#2 ∨ u = 2#2 ∨ u = 3#2 := by decide
  rcases hunits unit with rfl | rfl | rfl | rfl
  · exact exists_row_spi we off (hspi rfl) (by simpa using hrx)
  · exact exists_row_c7 we off (hc7 rfl) (by simpa using hread) (by simpa using hwrite)
  · exact exists_row_c16 we off (hc16 rfl) (by simpa using hread) (by simpa using hwrite)
  · exact absurd rfl hunit

/-- A register operation is refused for the mode or for a byte in progress, and for no other reason. -/
theorem exec_regOp_refused {i : Instr} {s : State} {r : Refusal} (hi : isFrame i = false) (he : exec i s = .refused r) :
    r = .reservedMode ∨ r = .writeWhileSending := by
  cases i <;> simp only [isFrame, Bool.true_eq_false] at hi
  case spiDiv d =>
    simp only [exec, execSpiDiv] at he
    split at he <;> cases he
    exact .inr rfl
  case spiCs m =>
    simp only [exec, execSpiCs] at he
    split at he
    · cases he
      exact .inl rfl
    · split at he <;> cases he
      exact .inr rfl
  all_goals cases he

/-- Settles O3: a triple has a row or is reserved, and the operations of the rows are refused for other reasons. -/
theorem reservedTransactionWordsAreRefused : Obligations.ReservedTransactionWordsAreRefused := by
  intro s we unit off d rest ha
  change (∃ why, step s = .refused (.reservedWord why)) ↔ IsReservedTriple we unit off
  obtain ⟨hok, herror⟩ := step_of_itemWord_ok (w := regWord we unit off d) ha rfl
  rw [decode_regWord] at hok herror
  rcases decodeReg_cases we unit off d with ⟨r, hr, hselects, hrow⟩ | ⟨hnone, hreserved⟩
  · obtain ⟨rfl, rfl, rfl⟩ := (selects_iff ..).1 hselects
    refine iff_of_false ?_ (not_isReservedTriple_of_mem r hr)
    rintro ⟨why, hrefused⟩
    rw [hok _ hrow] at hrefused
    rcases exec_regOp_refused (isFrame_build r hr d) hrefused with e | e <;> cases e
  · refine iff_of_true ⟨_, herror _ hreserved⟩ ?_
    by_contra h
    obtain ⟨r, hr, hselects⟩ := exists_row_of_not_isReservedTriple h
    exact hnone r hr hselects

end Sys2Proof.Proofs
end

section
/-!
PROOFS. The CRC7 of the command frames (spec/30_encoding.md R92, R95, R104; spec/40_crc7.md R118): carried by the frames' words,
and computed by the C7 unit.
-/
namespace Sys2Proof.Proofs

open Sys2Proof.Machine Sys2Proof.Laws

/-- Where the CRC7 field of an instruction's frame is the computed one, its bytes are those of R118. -/
theorem frameBytes_eq_frame {i : Instr} {index : BitVec 6} {arg : BitVec 32} {crc : BitVec 7}
    (hi : encode i = frameWord index arg crc) (hcrc : crc = crc7seq (frameBody index arg)) :
    frameBytes i = frame index arg := by
  rw [frameBytes, hi, hcrc]
  exact frameWord_bytes ..

/-- Settles O14: the CRC7 fields of the seven fixed frames are computed, that of CMD18 is what well-formedness asks for. -/
theorem commandFramesCarryTheirCrc : Obligations.CommandFramesCarryTheirCrc := by
  refine ⟨frameBytes_eq_frame rfl ?_, frameBytes_eq_frame rfl ?_, frameBytes_eq_frame rfl ?_, frameBytes_eq_frame rfl ?_,
    frameBytes_eq_frame rfl ?_, frameBytes_eq_frame rfl ?_, frameBytes_eq_frame rfl ?_,
    fun lba crc h => frameBytes_eq_frame rfl (beq_iff_eq.1 h)⟩
  all_goals decide +kernel

/-- Folds on a remainder that is held, whatever instructions come after them. -/
theorem execAll_c7Fold_append (bs : List Byte) (is : List Instr) (s : State) (r : BitVec 7) :
    execAll (bs.map .c7Fold ++ is) (s.setRem r) = execAll is (s.setRem (bs.foldl crc7 r)) := by
  induction bs generalizing r with
  | nil => rfl
  | cons b bs ih => exact ih (crc7 r b)

/-- A load of 0 and folds leave the CRC7 of the bytes folded (R112). -/
theorem execAll_c7Ld_c7Fold_append (bs : List Byte) (is : List Instr) (s : State) :
    execAll ([.c7Ld 0] ++ bs.map .c7Fold ++ is) s = execAll is (s.setRem (crc7seq bs)) :=
  execAll_c7Fold_append bs is s 0

/-- Settles O19: the read returns the CRC byte of the remainder that the load and the folds leave. -/
theorem c7SequenceYieldsTheFrameByte : Obligations.C7SequenceYieldsTheFrameByte := by
  intro s index arg
  have hbyte : (frame index arg)[5]? = some (crcbyte (crc7seq (frameBody index arg))) := rfl
  rw [hbyte, execAll_c7Ld_c7Fold_append]
  generalize crc7seq (frameBody index arg) = rem
  rfl

end Sys2Proof.Proofs
end

section
/-!
PROOFS. What a CRC loop detects, as far as its generator tells it: one wrong bit in the message (spec/40_crc7.md section 3, R120),
first for every width and every generator with a constant term, then for the body of a command frame.
-/
namespace Sys2Proof.Proofs

open Polynomial
open Sys2Proof.Machine

/-! A generator with a constant term divides no power of `x`. -/

theorem coeff_zero_toPoly {w : Nat} (v : BitVec w) : (toPoly v).coeff 0 = if v.getLsbD 0 then 1 else 0 := by
  cases w with
  | zero => simp [toPoly, BitVec.of_length_zero]
  | succ n => simp [toPoly, Finset.sum_range_succ', apply_ite (coeff · 0)]

theorem coeff_zero_generator {w : Nat} {g : BitVec w} (hg : g.getLsbD 0 = true) : (generator g).coeff 0 = 1 := by
  have hw : w ≠ 0 := Nat.ne_of_gt (BitVec.lt_of_getLsbD hg)
  simp [generator, coeff_zero_toPoly, hg, hw.symm, coeff_X_pow]

theorem generator_not_dvd_X_pow {w : Nat} {g : BitVec w} (hg : g.getLsbD 0 = true) (n : Nat) :
    ¬ generator g ∣ (X : (ZMod 2)[X]) ^ n := by
  intro hdvd
  have hX : ¬ X ∣ generator g := by simp [X_dvd_iff, coeff_zero_generator hg]
  have hcoprime : IsCoprime (generator g) (X ^ n) := ((irreducible_X.coprime_iff_not_dvd.2 hX).pow_left).symm
  have hdegree := degree_eq_zero_of_isUnit (hcoprime.isUnit_of_dvd' dvd_rfl hdvd)
  rw [degree_generator] at hdegree
  exact (BitVec.lt_of_getLsbD hg).ne' (by exact_mod_cast hdegree)

/-- A CRC loop tells apart two messages of one length whose difference is a single power of `x`: the remainders differ by that
of a power of `x`, which is not 0. -/
theorem foldl_crcBit_ne_of_bitsPoly_add {w k : Nat} {g : BitVec w} (hg : g.getLsbD 0 = true) (r : BitVec w)
    {bits bits' : List Bool} (hlength : bits'.length = bits.length) (hdiff : bitsPoly bits' = bitsPoly bits + X ^ k) :
    bits.foldl (crcBit g) r ≠ bits'.foldl (crcBit g) r := by
  intro heq
  have hrem := congrArg toPoly heq.symm
  rw [toPoly_foldl_crcBit, toPoly_foldl_crcBit, hlength, hdiff, add_mul, ← add_assoc, add_modByMonic, add_eq_left,
    modByMonic_eq_zero_iff_dvd (generator_monic g), ← pow_add] at hrem
  exact generator_not_dvd_X_pow hg _ hrem

/-! The polynomial of a word is that of its bytes' bits in the order of transmission. -/

theorem toPoly_append {w n : Nat} (u : BitVec w) (v : BitVec n) : toPoly (u ++ v) = toPoly u * X ^ n + toPoly v := by
  have hlow : ∀ i ∈ Finset.range n, (u ++ v).getLsbD i = v.getLsbD i := fun i hi => by
    simp [BitVec.getLsbD_append, Finset.mem_range.1 hi]
  rw [toPoly, Finset.sum_congr (congrArg _ (Nat.add_comm w n)) fun _ _ => rfl, Finset.sum_range_add,
    Finset.sum_congr rfl fun i hi => by rw [hlow i hi], add_comm]
  simp [toPoly, BitVec.getLsbD_append, Finset.sum_mul, pow_add, mul_comm (X ^ n)]

theorem bitsPoly_append (xs ys : List Bool) : bitsPoly (xs ++ ys) = bitsPoly xs * X ^ ys.length + bitsPoly ys := by
  induction xs with
  | nil => simp [bitsPoly]
  | cons x xs ih => simp [bitsPoly, ih, add_mul, ite_mul, pow_add, add_assoc]

theorem length_flatMap_bitsMsbFirst (bs : List Byte) : (bs.flatMap bitsMsbFirst).length = 8 * bs.length := by
  simp [bitsMsbFirst, mul_comm]

theorem bitsPoly_flatMap_cons (b : Byte) (bs : List Byte) :
    bitsPoly ((b :: bs).flatMap bitsMsbFirst) = toPoly b * X ^ (8 * bs.length) + bitsPoly (bs.flatMap bitsMsbFirst) := by
  rw [List.flatMap_cons, bitsPoly_append, bitsPoly_bitsMsbFirst, length_flatMap_bitsMsbFirst]

theorem toPoly_one_shiftLeft {w k : Nat} (hk : k < w) : toPoly (1#w <<< k) = X ^ k := by
  simp [← BitVec.twoPow_eq, toPoly, BitVec.getLsbD_twoPow, hk]

/-! The body of a command frame. -/

/-- The bytes of a frame's 40-bit body, most significant first (R92, R118). -/
def bodyBytes (m : BitVec 40) : List Byte :=
  [m.extractLsb' 32 8, m.extractLsb' 24 8, m.extractLsb' 16 8, m.extractLsb' 8 8, m.extractLsb' 0 8]

/-- The bits over which the frame's CRC7 runs. -/
def bodyBits (m : BitVec 40) : List Bool := (bodyBytes m).flatMap bitsMsbFirst

theorem crc7seq_bodyBytes (m : BitVec 40) : crc7seq (bodyBytes m) = (bodyBits m).foldl (crcBit 0x09#7) 0#7 :=
  List.foldl_flatMap.symm

theorem length_bodyBits (m : BitVec 40) : (bodyBits m).length = 40 := length_flatMap_bitsMsbFirst _

theorem bitsPoly_flatMap_five (b₄ b₃ b₂ b₁ b₀ : Byte) :
    bitsPoly ([b₄, b₃, b₂, b₁, b₀].flatMap bitsMsbFirst) = toPoly (b₄ ++ (b₃ ++ (b₂ ++ (b₁ ++ b₀)))) := by
  simp only [bitsPoly_flatMap_cons, toPoly_append]
  simp [bitsPoly]

theorem bitsPoly_bodyBits (m : BitVec 40) : bitsPoly (bodyBits m) = toPoly m := by
  have hbytes : m.extractLsb' 32 8 ++ (m.extractLsb' 24 8 ++ (m.extractLsb' 16 8 ++
      (m.extractLsb' 8 8 ++ m.extractLsb' 0 8))) = m := by
    simp only [BitVec.extractLsb'_append_extractLsb'_eq_extractLsb', BitVec.extractLsb'_eq_self]
  exact (bitsPoly_flatMap_five ..).trans (congrArg toPoly hbytes)

/-- Settles O12: a flipped bit adds one power of `x` to the message. -/
theorem frameCrcDetectsEverySingleBitError : Obligations.FrameCrcDetectsEverySingleBitError := by
  intro m k hk
  change crc7seq (bodyBytes m) ≠ crc7seq (bodyBytes (m ^^^ (1#40 <<< k)))
  rw [crc7seq_bodyBytes, crc7seq_bodyBytes]
  refine foldl_crcBit_ne_of_bitsPoly_add (k := k) (by decide) 0#7 (by simp only [length_bodyBits]) ?_
  rw [bitsPoly_bodyBits, bitsPoly_bodyBits, toPoly_xor, toPoly_one_shiftLeft hk]

end Sys2Proof.Proofs
end

section
/-!
PROOFS. The operations of the C7 unit (spec/40_crc7.md section 2, R113 to R116): the word that selects each, and the whole next
state, with and without a value in `C7.REM` (spec/93_implementation_defined.md U1).
-/
namespace Sys2Proof.Proofs

open Sys2Proof.Machine Sys2Proof.Laws

/-! A read of `C7.REM` that returns a function of its bits (R114, R116). -/

section ReadRem

variable {s : State} {n : Nat} (f : BitVec 7 → BitVec n)

theorem readRem_of_some {r : BitVec 7} (h : s.c7Rem = some r) :
    (s.afterRead s.c7Rem).setRdata (readField (f (remBits s))) = { s with rdata := some ((f r).setWidth 32) } := by
  have hstate : s.afterRead s.c7Rem = s := by rw [h, afterRead_some]
  rw [hstate, remBits_of_some s r h]
  rfl

theorem readRem_of_none (h : s.c7Rem = none) :
    (s.afterRead s.c7Rem).setRdata (readField (f (remBits s))) =
      { s with
        rdata := some ((f ((Config.anyWord s.draws).setWidth 7)).setWidth 32), draws := s.draws + 1, u1Met := true } := by
  have hstate : s.afterRead s.c7Rem = s.bumpDraws.meetU1 := by rw [h, afterRead_none]
  have hbits : remBits s = (Config.anyWord s.draws).setWidth 7 := by rw [remBits, h, Option.getD_none]
  rw [hstate, hbits]
  rfl

end ReadRem

/-! A fold into `C7.REM` (R115). -/

theorem foldRem_of_some {s : State} {r : BitVec 7} (b : Byte) (h : s.c7Rem = some r) :
    s.foldRem b = s.setRem (crc7 r b) := by
  simpa [h] using foldRem_cases s b

theorem foldRem_of_none {s : State} (b : Byte) (h : s.c7Rem = none) : s.foldRem b = s.meetU1 := by
  simpa [h] using foldRem_cases s b

/-! The four operations. -/

/-- Settles O15. -/
theorem c7LoadSetsTheRemainder : Obligations.C7LoadSetsTheRemainder :=
  ⟨fun _ => decode_regWord .., fun _ _ => rfl⟩

/-- Settles O16: the bits read are returned as they are. -/
theorem c7ReadReturnsTheRemainder : Obligations.C7ReadReturnsTheRemainder :=
  ⟨fun _ => decode_regWord .., fun _ _ h => congrArg Host.Outcome.next (readRem_of_some id h),
    fun _ h => congrArg Host.Outcome.next (readRem_of_none id h)⟩

/-- Settles O17. -/
theorem c7FoldFoldsOneByte : Obligations.C7FoldFoldsOneByte :=
  ⟨fun _ => decode_regWord .., fun _ _ b h => congrArg Host.Outcome.next (foldRem_of_some b h),
    fun _ b h => congrArg Host.Outcome.next (foldRem_of_none b h)⟩

/-- Settles O18: the bits read are returned as a CRC byte (R117). -/
theorem c7FinReturnsTheCrcByte : Obligations.C7FinReturnsTheCrcByte :=
  ⟨fun _ => decode_regWord .., fun _ _ h => congrArg Host.Outcome.next (readRem_of_some crcbyte h),
    fun _ h => congrArg Host.Outcome.next (readRem_of_none crcbyte h)⟩

end Sys2Proof.Proofs
end

section
/-!
PROOFS. The operations of the C16 unit (spec/41_crc16.md section 2, R133 to R137): the word that selects each, and the whole next
state, with and without a value in the register read (spec/93_implementation_defined.md U1); then the sequence of R138.
-/
namespace Sys2Proof.Proofs

open Sys2Proof.Machine Sys2Proof.Laws

/-! What a read of `C16.ACC` and of `C16.MISMATCH` takes from a register that holds no value. -/

theorem accBits_of_none {s : State} (h : s.c16Acc = none) : accBits s = (Config.anyWord s.draws).setWidth 16 := by
  rw [accBits, h, Option.getD_none]

theorem mismatchBit_of_none {s : State} (h : s.c16Mismatch = none) : mismatchBit s = (Config.anyWord s.draws).getLsbD 0 := by
  rw [mismatchBit, h, Option.getD_none]

theorem mismatch_eq_ite (acc e : BitVec 16) : mismatch acc e = if acc = e then false else true := by
  by_cases h : acc = e <;> simp [mismatch, h]

theorem readField_ofBool (m : Bool) : readField (BitVec.ofBool m) = if m then 1 else 0 := by
  cases m <;> rfl

/-! The next state of each operation, by whether the register it reads holds a value. -/

section NextState

variable {s : State} {a : BitVec 16} {m : Bool}

theorem exec_c16Rd_of_some (h : s.c16Acc = some a) : exec .c16Rd s = .next (s.setRdata (readField a)) := by
  rw [exec, execC16Rd, accBits_of_some s a h, h, afterRead_some]

theorem exec_c16Rd_of_none (h : s.c16Acc = none) :
    exec .c16Rd s = .next (s.bumpDraws.meetU1.setRdata (readField ((Config.anyWord s.draws).setWidth 16))) := by
  rw [exec, execC16Rd, accBits_of_none h, h, afterRead_none]

theorem exec_c16Fold_of_some (b : Byte) (h : s.c16Acc = some a) : exec (.c16Fold b) s = .next (s.setAcc (crc16 a b)) := by
  simpa [exec, execC16Fold, h] using foldAcc_cases s b

theorem exec_c16Fold_of_none (b : Byte) (h : s.c16Acc = none) : exec (.c16Fold b) s = .next s.meetU1 := by
  simpa [exec, execC16Fold, h] using foldAcc_cases s b

theorem exec_c16Chk_of_some (e : BitVec 16) (h : s.c16Acc = some a) :
    exec (.c16Chk e) s = .next (s.setMismatch (if a = e then false else true)) := by
  rw [exec, execC16Chk, accBits_of_some s a h, mismatch_eq_ite, h, afterRead_some]

theorem exec_c16Chk_of_none (e : BitVec 16) (h : s.c16Acc = none) :
    exec (.c16Chk e) s =
      .next (s.bumpDraws.meetU1.setMismatch (if (Config.anyWord s.draws).setWidth 16 = e then false else true)) := by
  rw [exec, execC16Chk, accBits_of_none h, mismatch_eq_ite, h, afterRead_none]

theorem exec_c16Stat_of_some (h : s.c16Mismatch = some m) :
    exec .c16Stat s = .next (s.setRdata (if m then 1 else 0)) := by
  rw [exec, execC16Stat, mismatchBit_of_some s m h, readField_ofBool, h, afterRead_some]

theorem exec_c16Stat_of_none (h : s.c16Mismatch = none) :
    exec .c16Stat s = .next (s.bumpDraws.meetU1.setRdata (if (Config.anyWord s.draws).getLsbD 0 then 1 else 0)) := by
  rw [exec, execC16Stat, mismatchBit_of_none h, readField_ofBool, h, afterRead_none]

end NextState

/-- Settles O20. -/
theorem c16LoadSetsTheAccumulator : Obligations.C16LoadSetsTheAccumulator :=
  ⟨fun _ => decode_regWord .., fun _ _ => rfl⟩

/-- Settles O21. -/
theorem c16ReadReturnsTheAccumulator : Obligations.C16ReadReturnsTheAccumulator :=
  ⟨fun _ => decode_regWord .., fun _ _ => exec_c16Rd_of_some, fun _ => exec_c16Rd_of_none⟩

/-- Settles O22. -/
theorem c16FoldFoldsOneByte : Obligations.C16FoldFoldsOneByte :=
  ⟨fun _ => decode_regWord .., fun _ _ => exec_c16Fold_of_some, fun _ => exec_c16Fold_of_none⟩

/-- Settles O23. -/
theorem c16CheckRecordsTheComparison : Obligations.C16CheckRecordsTheComparison :=
  ⟨fun _ => decode_regWord .., fun _ _ => exec_c16Chk_of_some, fun _ => exec_c16Chk_of_none⟩

/-- Settles O24. -/
theorem c16StatusReturnsTheFlag : Obligations.C16StatusReturnsTheFlag :=
  ⟨fun _ => decode_regWord .., fun _ _ => exec_c16Stat_of_some, fun _ => exec_c16Stat_of_none⟩

/-! The sequence of R138. -/

theorem execAll_cons_of_next {i : Instr} {s t : State} (h : exec i s = .next t) (is : List Instr) :
    execAll (i :: is) s = execAll is t := by
  rw [execAll, h]

/-- A load of 0 and folds leave the CRC16 of the bytes folded (R132), whatever instructions come after them: the first fold
finds the value loaded, and every later one the value of the fold before it. -/
theorem execAll_c16Ld_c16Fold_append (bs : List Byte) (is : List Instr) (s : State) :
    execAll ([.c16Ld 0] ++ bs.map .c16Fold ++ is) s = execAll is (s.setAcc (crc16seq bs)) := by
  have hfolds : ∀ a, execAll (bs.map .c16Fold ++ is) (s.setAcc a) = execAll is (s.setAcc (bs.foldl crc16 a)) := by
    induction bs with
    | nil => exact fun _ => rfl
    | cons b bs ih => exact fun a => (execAll_cons_of_next (exec_c16Fold_of_some b rfl) _).trans (ih (crc16 a b))
  exact hfolds 0

/-- `C16.CHK` of the trailing bytes compares as `verify` does. -/
theorem ite_crc16seq_eq_not_verify (data : List Byte) (hi lo : Byte) :
    (if crc16seq data = hi ++ lo then false else true) = !verify data hi lo := by
  by_cases h : crc16seq data = hi ++ lo <;> simp [verify, expectedCrc, h]

/-- Settles O25: the check finds the CRC16 that the load and the folds leave, and the read finds the check's flag. -/
theorem c16SequenceVerifiesTheBlock : Obligations.C16SequenceVerifiesTheBlock := by
  intro s data hi lo
  rw [execAll_c16Ld_c16Fold_append, execAll_cons_of_next (exec_c16Chk_of_some _ (setAcc_c16Acc ..)),
    execAll_cons_of_next (exec_c16Stat_of_some (setMismatch_c16Mismatch ..)), ite_crc16seq_eq_not_verify]
  cases verify data hi lo <;> rfl

end Sys2Proof.Proofs
end

section
/-!
PROOFS. What the block check guarantees (spec/41_crc16.md section 3, R140): a CRC loop that reads its own remainder ends at 0, and
one wrong bit of the data or of the CRC never verifies.
-/
namespace Sys2Proof.Proofs

open Polynomial
open Sys2Proof.Machine

/-! A CRC loop that reads its own remainder. -/

theorem coeff_toPoly {w : Nat} (v : BitVec w) {i : Nat} (hi : i < w) : (toPoly v).coeff i = if v.getLsbD i then 1 else 0 := by
  rw [toPoly, finsetSum_coeff, Finset.sum_eq_single_of_mem i (Finset.mem_range.2 hi)]
  · split <;> simp
  · intro j _ hj
    split <;> simp [coeff_X_pow, hj.symm]

theorem eq_zero_of_toPoly_eq_zero {w : Nat} {v : BitVec w} (h : toPoly v = 0) : v = 0#w := by
  apply BitVec.eq_of_getLsbD_eq
  intro i hi
  simpa [h] using coeff_toPoly v hi

/-- The dividend is then twice the remainder, which over GF(2) is 0. -/
theorem foldl_crcBit_eq_zero {w : Nat} (g r : BitVec w) {bits : List Bool} (hlength : bits.length = w)
    (hbits : bitsPoly bits = toPoly r) : bits.foldl (crcBit g) r = 0#w := by
  apply eq_zero_of_toPoly_eq_zero
  rw [toPoly_foldl_crcBit, hlength, hbits, CharTwo.add_self_eq_zero, zero_modByMonic]

/-! Bytes as bits. -/

theorem foldl_crc16_eq_foldl_crcBit (bs : List Byte) (a : BitVec 16) :
    bs.foldl crc16 a = (bs.flatMap bitsMsbFirst).foldl (crcBit 0x1021#16) a :=
  List.foldl_flatMap.symm

theorem bitsPoly_flatMap_pair (hi lo : Byte) : bitsPoly ([hi, lo].flatMap bitsMsbFirst) = toPoly (hi ++ lo) := by
  simp only [bitsPoly_flatMap_cons, toPoly_append]
  simp [bitsPoly]

/-- Bit `k` of the byte at index `i` stands at the power of `x` given by the bits that come after it (R130). -/
theorem bitsPoly_flatMap_modify {bs : List Byte} {i k : Nat} (hi : i < bs.length) (hk : k < 8) :
    bitsPoly ((bs.modify i (· ^^^ (1#8 <<< k))).flatMap bitsMsbFirst) =
      bitsPoly (bs.flatMap bitsMsbFirst) + X ^ (k + 8 * (bs.length - (i + 1))) := by
  induction bs generalizing i with
  | nil => simp at hi
  | cons b bs ih =>
    cases i with
    | zero =>
      simp only [List.modify_zero_cons, bitsPoly_flatMap_cons, toPoly_xor, toPoly_one_shiftLeft hk, List.length_cons,
        Nat.zero_add, Nat.add_sub_cancel, pow_add]
      ring
    | succ i =>
      simp only [List.modify_succ_cons, bitsPoly_flatMap_cons, List.length_modify, List.length_cons,
        Nat.add_sub_add_right _ 1 (i + 1), ih (Nat.lt_of_succ_lt_succ hi), ← add_assoc]

/-! The block check. -/

/-- The trailing bytes of a CRC, high byte first, are read back as that CRC (R56, R98). -/
theorem append_crcBytes (c : BitVec 16) : (c.extractLsb' 8 8 ++ c.extractLsb' 0 8 : BitVec 16) = c := by
  rw [BitVec.extractLsb'_append_extractLsb'_eq_extractLsb' (by rfl)]
  exact BitVec.extractLsb'_eq_self

theorem verify_crcBytes (data : List Byte) (c : BitVec 16) :
    verify data (c.extractLsb' 8 8) (c.extractLsb' 0 8) = (crc16seq data == c) := by
  rw [verify, expectedCrc, append_crcBytes]

theorem xor_one_shiftLeft_ne {w k : Nat} (c : BitVec w) (hk : k < w) : c ≠ c ^^^ (1#w <<< k) := by
  intro h
  have hbit := congrArg (BitVec.getLsbD · k) h
  simp [← BitVec.twoPow_eq, hk] at hbit

/-- R140 (b), of the data: a flipped bit adds one power of `x` to the message. -/
theorem crc16seq_ne_modify {data : List Byte} {i k : Nat} (hi : i < data.length) (hk : k < 8) :
    crc16seq data ≠ crc16seq (data.modify i (· ^^^ (1#8 <<< k))) := by
  simp only [crc16seq, foldl_crc16_eq_foldl_crcBit]
  refine foldl_crcBit_ne_of_bitsPoly_add (by decide) 0#16 ?_ (bitsPoly_flatMap_modify hi hk)
  simp only [length_flatMap_bitsMsbFirst, List.length_modify]

/-- R140 (c), from every accumulator. -/
theorem foldl_crc16_own_bytes (c : BitVec 16) : [c.extractLsb' 8 8, c.extractLsb' 0 8].foldl crc16 c = 0#16 := by
  rw [foldl_crc16_eq_foldl_crcBit]
  refine foldl_crcBit_eq_zero _ c (length_flatMap_bitsMsbFirst _) ?_
  rw [bitsPoly_flatMap_pair, append_crcBytes]

/-- Settles O13: a wrong bit of the data changes the CRC computed, and one of the CRC the value it is compared with. -/
theorem blockCheckAcceptsTheRightCrcAndRejectsOneFlippedBit :
    Obligations.BlockCheckAcceptsTheRightCrcAndRejectsOneFlippedBit := by
  intro data hlength
  refine ⟨?_, fun i k hi hk => ?_, fun k hk => ?_, ?_⟩
  · rw [verify_crcBytes, beq_self_eq_true]
  · rw [verify_crcBytes, beq_eq_false_iff_ne]
    exact (crc16seq_ne_modify (hlength ▸ hi) hk).symm
  · rw [verify_crcBytes, beq_eq_false_iff_ne]
    exact xor_one_shiftLeft_ne _ hk
  · rw [List.foldl_append]
    exact foldl_crc16_own_bytes _

end Sys2Proof.Proofs
end

section
/-!
PROOFS. The host's operations on the SPI unit (spec/42_spi.md sections 2 to 4, R152 to R160): the word that selects each, and the
whole next state or the refusal (spec/93_implementation_defined.md U4, U7).
-/
namespace Sys2Proof.Proofs

open Sys2Proof.Machine Sys2Proof.Laws

/-! The operations that a byte in progress refuses (U7), and the reserved mode (U4). -/

section ByteInProgress

variable {s : State} {m : BitVec 2} {mode : CsMode}

theorem exec_spiDiv_of_empty (d : BitVec 12) (h : s.txq = []) : exec (.spiDiv d) s = .next (s.setDiv d) :=
  if_pos (List.isEmpty_iff.2 h)

theorem exec_spiDiv_of_pending (d : BitVec 12) (h : s.txq ≠ []) : exec (.spiDiv d) s = .refused .writeWhileSending :=
  if_neg (mt List.isEmpty_iff.1 h)

theorem exec_spiCs_of_reserved (h : csModeOfBits m = none) : exec (.spiCs m) s = .refused .reservedMode := by
  rw [exec, execSpiCs, h]

theorem exec_spiCs_of_empty (hm : csModeOfBits m = some mode) (h : s.txq = []) :
    exec (.spiCs m) s = .next (s.setMode mode) := by
  rw [exec, execSpiCs, hm]
  exact if_pos (List.isEmpty_iff.2 h)

theorem exec_spiCs_of_pending (hm : csModeOfBits m = some mode) (h : s.txq ≠ []) :
    exec (.spiCs m) s = .refused .writeWhileSending := by
  rw [exec, execSpiCs, hm]
  exact if_neg (mt List.isEmpty_iff.1 h)

end ByteInProgress

/-! The words that the reads return (R86, R87). -/

theorem readField_csModeBits (m : CsMode) :
    readField (csModeBits m) = (match m with | .auto => 0 | .hold => 2 | .off => 3) := by
  cases m <;> rfl

theorem txfifoWord_txFull (s : State) :
    txfifoWord (txFull s) = if s.txq.length = Config.fifoDepth then 0x80000000 else 0x00000000 := by
  cases hfull : txFull s with
  | true => rw [if_pos ((txFull_iff s).1 hfull)]; rfl
  | false => rw [if_neg (fun hl => by simp [(txFull_iff s).2 hl] at hfull)]; rfl

/-! The two queues (R158, R160). -/

theorem enqueue_of_room {s : State} (b : Byte) (h : s.txq.length ≠ Config.fifoDepth) :
    s.enqueue b = { s with txq := s.txq ++ [b], sent := s.sent ++ [b] } := by
  rcases enqueue_cases s b with ⟨-, e⟩ | ⟨hfull, -⟩
  · exact e
  · exact absurd ((txFull_iff s).1 hfull) h

theorem receive_of_empty {s : State} (h : s.rxq = []) :
    s.receive = { s with rdata := some (sentinelWord (Config.anyWord s.draws)), draws := s.draws + 1 } := by
  simpa [h] using receive_cases s

theorem receive_of_cons {s : State} {b : Byte} {rest : List Byte} (h : s.rxq = b :: rest) :
    s.receive = { s with rxq := rest, taken := s.taken ++ [b], rdata := some (readField b) } := by
  rcases receive_cases s with ⟨hempty, -⟩ | ⟨b', rest', hcons, e⟩
  · rw [h] at hempty; cases hempty
  · rw [h] at hcons; cases hcons; exact e

/-! The operations. -/

/-- Settles O26. -/
theorem spiDivSetsTheDivider : Obligations.SpiDivSetsTheDivider :=
  ⟨fun _ => decode_regWord .., fun d _ => exec_spiDiv_of_empty d, fun d _ => exec_spiDiv_of_pending d⟩

/-- Settles O27. -/
theorem spiRddivReturnsTheDivider : Obligations.SpiRddivReturnsTheDivider :=
  ⟨fun _ => decode_regWord .., fun _ => rfl, rfl⟩

/-- Settles O28: the value 1 names no mode, each of the other three names the mode beside it. -/
theorem spiCsWritesTheMode : Obligations.SpiCsWritesTheMode := by
  refine ⟨fun _ => decode_regWord .., fun _ => exec_spiCs_of_reserved rfl, fun s p hp => ?_⟩
  have hnamed : csModeOfBits p.1 = some p.2 := by
    revert p
    decide
  exact ⟨exec_spiCs_of_pending hnamed, exec_spiCs_of_empty hnamed⟩

/-- Settles O29. -/
theorem spiRdcsReturnsTheMode : Obligations.SpiRdcsReturnsTheMode :=
  ⟨fun _ => decode_regWord .., fun s =>
    congrArg (fun w => Host.Outcome.next (s.setRdata w)) (readField_csModeBits s.mode)⟩

/-- Settles O30: the transmit FIFO has room, whatever the mode. -/
theorem spiTxQueuesTheByte : Obligations.SpiTxQueuesTheByte :=
  ⟨fun _ => decode_regWord .., fun _ b h => congrArg Host.Outcome.next (enqueue_of_room b h)⟩

/-- Settles O32. -/
theorem spiTxstReturnsTheFullFlag : Obligations.SpiTxstReturnsTheFullFlag :=
  ⟨fun _ => decode_regWord .., fun s => congrArg (fun w => Host.Outcome.next (s.setRdata w)) (txfifoWord_txFull s)⟩

/-- Settles O33: the free bits of the sentinel are those of the word drawn. -/
theorem spiRxTakesTheOldestByteOrReportsEmpty : Obligations.SpiRxTakesTheOldestByteOrReportsEmpty :=
  ⟨fun _ => decode_regWord ..,
    fun s h => ⟨(Config.anyWord s.draws).setWidth 31, congrArg Host.Outcome.next (receive_of_empty h)⟩,
    fun _ _ _ h => congrArg Host.Outcome.next (receive_of_cons h)⟩

end Sys2Proof.Proofs
end

section
/-!
PROOFS. The shifter (spec/42_spi.md R163 to R167): one turn, and with an empty agenda the turns that drain the transmit FIFO.
-/
namespace Sys2Proof.Proofs

open Sys2Proof.Machine Sys2Proof.Laws

/-! One turn. -/

section ShifterTurn

variable {s : State}

theorem shift_of_empty (h : s.txq = []) : shift s = .next s := by
  simp [shift, State.shifted, h]

variable {t : Byte} {q : List Byte} (hq : s.txq = t :: q)
include hq

theorem shift_of_room (hroom : s.rxq.length ≠ Config.fifoDepth) : shift s = .next (s.exchangeByte t) := by
  simp [shift, State.shifted, hq, rxFull, hroom]

theorem shift_of_full (hfull : s.rxq.length = Config.fifoDepth) : shift s = .refused .receiveOverflow := by
  simp [shift, hq, rxFull, hfull]

end ShifterTurn

theorem step_of_shifterTurn {s : State} {rest : List Turn} (h : s.agenda = .shifter :: rest) :
    step s = shift (s.setAgenda rest) := by
  rw [step, h]

/-- Log entry 2: with nothing placed the shifter has the turn. -/
theorem step_of_emptyAgenda {s : State} (h : s.agenda = []) : step s = shift s := by
  rw [step, h]

/-- Chip select is deasserted in OFF alone (R34). -/
theorem csLevel_eq_ite (m : CsMode) : csLevel m = if m = .off then .deasserted else .asserted := by
  cases m <;> rfl

/-- Settles O34: the turn is `SHIFT` on the rest of the agenda, which neither the card nor the receive FIFO sees. -/
theorem shifterTurnIsOneExchange : Obligations.ShifterTurnIsOneExchange := by
  intro s rest ha
  rw [step_of_shifterTurn ha]
  refine ⟨shift_of_empty (s := s.setAgenda rest), fun t q hq =>
    ⟨shift_of_full (s := s.setAgenda rest) hq, fun hroom => ?_⟩⟩
  rw [← csLevel_eq_ite, shift_of_room (s := s.setAgenda rest) hq hroom]
  simp [State.exchangeByte, State.setAgenda, cardByte, hq]

/-! The turns that drain the queue. -/

/-- `q` has been sent since the first state, one byte received for each byte of it behind those received before (R167). -/
structure Drained (q : List Byte) (s t : State) : Prop where
  txq : t.txq = []
  received : t.rxq.length = q.length + s.rxq.length
  kept : s.rxq <+: t.rxq
  sent : wireSent t.wire = wireSent s.wire ++ q

/-- The oldest byte first, and then the rest of the queue. -/
theorem drained_cons {s u : State} {b : Byte} {q : List Byte} (h : Drained q (s.exchangeByte b) u) :
    Drained (b :: q) s u where
  txq := h.txq
  received := by
    rw [h.received, exchangeByte_rxq, List.length_append, List.length_singleton, List.length_cons]
    omega
  kept := (List.prefix_append s.rxq [cardByte s b]).trans h.kept
  sent := by
    rw [h.sent, exchangeByte_wire, wireSent_append, wireSent_singleton_exchange, List.append_assoc, List.singleton_append]

/-- One step sends one byte as long as the receive FIFO has room for all of the queue. -/
theorem runsTo_drained (q : List Byte) (s : State) (ha : s.agenda = []) (hq : s.txq = q)
    (hroom : q.length + s.rxq.length ≤ Config.fifoDepth) : ∃ t, RunsTo q.length s t ∧ Drained q s t := by
  induction q generalizing s with
  | nil => exact ⟨s, runsTo_zero s, hq, by simp, List.prefix_rfl, by simp⟩
  | cons b q ih =>
    rw [List.length_cons] at hroom
    have hstep : step s = .next (s.exchangeByte b) := by
      rw [step_of_emptyAgenda ha, shift_of_room hq (by omega)]
    obtain ⟨t, hrun, hdrained⟩ := ih (s.exchangeByte b) ha (by rw [exchangeByte_txq, hq, List.tail_cons])
      (by rw [exchangeByte_rxq, List.length_append, List.length_singleton]; omega)
    exact ⟨t, (runsTo_succ hstep).2 hrun, drained_cons hdrained⟩

/-- Settles O43: by induction on the queue, one exchange a step. -/
theorem shifterDrainsTheQueue : Obligations.ShifterDrainsTheQueue := by
  intro s ha hroom
  obtain ⟨t, hrun, hdrained⟩ := runsTo_drained s.txq s ha rfl hroom
  exact ⟨t, hrun, hdrained.txq, hdrained.received, hdrained.kept, hdrained.sent⟩

end Sys2Proof.Proofs
end

section
/-!
PROOFS. When an instruction is refused (spec/60_exceptions.md R220, R228; spec/93_implementation_defined.md U4, U6, U7): register
operations by their own tests, command units by the accesses they are made of.
-/
namespace Sys2Proof.Proofs

open Sys2Proof.Machine Sys2Proof.Laws

/-- There is no fault to end in (R220). -/
theorem next_or_refused (o : Result) : (∃ t, o = .next t) ∨ ∃ r, o = .refused r := by
  cases o with
  | next t => exact .inl ⟨t, rfl⟩
  | fault r => cases r
  | refused r => exact .inr ⟨r, rfl⟩

/-! Register operations. -/

theorem exec_spiDiv_refused_iff (d : BitVec 12) (s : State) (r : Refusal) :
    exec (.spiDiv d) s = .refused r ↔ s.txq ≠ [] ∧ r = .writeWhileSending := by
  by_cases h : s.txq = []
  · simp [exec_spiDiv_of_empty d h, h]
  · simp [exec_spiDiv_of_pending d h, h, eq_comm]

theorem exec_spiCs_refused_iff (m : BitVec 2) (s : State) (r : Refusal) :
    exec (.spiCs m) s = .refused r ↔
      (m = 1 ∧ r = .reservedMode) ∨ (m ≠ 1 ∧ s.txq ≠ [] ∧ r = .writeWhileSending) := by
  by_cases hm : m = 1
  · rw [exec_spiCs_of_reserved ((csModeOfBits_eq_none_iff m).2 hm)]
    simp [hm, eq_comm]
  · obtain ⟨mode, hmode⟩ := Option.ne_none_iff_exists'.1 (mt (csModeOfBits_eq_none_iff m).1 hm)
    simp only [hm, false_and, false_or, ne_eq, not_false_iff, true_and]
    by_cases h : s.txq = []
    · simp [exec_spiCs_of_empty hmode h, h]
    · simp [exec_spiCs_of_pending hmode h, h, eq_comm]

/-! The accesses of a command unit: only the shifter's turns and the two writes of the mode can be refused. -/

/-- Where the accesses are refused it is for a receive overflow (U6) or for a write of the mode with a byte queued (U7). -/
def RefusedAtU6U7 {α : Type} (x : Accessed α) : Prop :=
  match x with
  | .done _ _ => True
  | .refused r => r = .receiveOverflow ∨ r = .writeWhileSending

theorem refusedAtU6U7_then {α β : Type} {x : Accessed α} {f : α → State → Accessed β} (hx : RefusedAtU6U7 x)
    (hf : ∀ a t, RefusedAtU6U7 (f a t)) : RefusedAtU6U7 (accThen x f) := by
  cases x with
  | done a t => exact hf a t
  | refused r => exact hx

theorem shift_refusedAtU6U7 (s : State) : RefusedAtU6U7 (accOp (shift s)) := by
  rcases shift_cases s with ⟨e, -⟩ | ⟨e, -⟩ <;> rw [e]
  · trivial
  · exact .inl rfl

theorem execSpiCs_refusedAtU6U7 (m : CsMode) (s : State) : RefusedAtU6U7 (accOp (execSpiCs (csModeBits m) s)) := by
  have hm := csModeOfBits_csModeBits m
  change RefusedAtU6U7 (accOp (exec (.spiCs (csModeBits m)) s))
  by_cases h : s.txq = []
  · rw [exec_spiCs_of_empty hm h]; trivial
  · rw [exec_spiCs_of_pending hm h]; exact .inr rfl

theorem shifterTurns_refusedAtU6U7 (n : Nat) (s : State) : RefusedAtU6U7 (shifterTurns n s) := by
  induction n generalizing s with
  | zero => trivial
  | succ n ih => exact refusedAtU6U7_then (shift_refusedAtU6U7 s) fun _ t => ih t

theorem access_refusedAtU6U7 {op : State → Result} (hop : ∀ s, RefusedAtU6U7 (accOp (op s))) (s : State) :
    RefusedAtU6U7 (access op s) := by
  refine refusedAtU6U7_then ?_ fun _ t => hop t
  unfold pacedTurns
  split
  · exact shifterTurns_refusedAtU6U7 _ s
  · exact shifterTurns_refusedAtU6U7 _ _

theorem pollRx_refusedAtU6U7 (n : Nat) (s : State) : RefusedAtU6U7 (pollRx n s) := by
  have hread (s : State) : RefusedAtU6U7 (access execSpiRx s) :=
    access_refusedAtU6U7 (op := execSpiRx) (fun _ => trivial) s
  induction n generalizing s with
  | zero => exact refusedAtU6U7_then (hread s) fun _ _ => trivial
  | succ n ih =>
    refine refusedAtU6U7_then (hread s) fun _ t => ?_
    split
    · exact ih t
    · trivial

theorem transfer_refusedAtU6U7 (b : Byte) (s : State) : RefusedAtU6U7 (transfer b s) :=
  refusedAtU6U7_then (access_refusedAtU6U7 (op := execSpiTx b) (fun _ => trivial) s) fun _ t => pollRx_refusedAtU6U7 _ t

theorem transfers_refusedAtU6U7 (bs : List Byte) (s : State) : RefusedAtU6U7 (transfers bs s) := by
  induction bs generalizing s with
  | nil => trivial
  | cons b bs ih => exact refusedAtU6U7_then (transfer_refusedAtU6U7 b s) fun _ t => ih t

theorem idleBytes_refusedAtU6U7 (n : Nat) (s : State) : RefusedAtU6U7 (idleBytes n s) := by
  induction n generalizing s with
  | zero => trivial
  | succ n ih =>
    exact refusedAtU6U7_then (transfer_refusedAtU6U7 idle s) fun _ t =>
      refusedAtU6U7_then (ih t) fun _ _ => trivial

theorem pollResponse_refusedAtU6U7 (n : Nat) (s : State) : RefusedAtU6U7 (pollResponse n s) := by
  induction n generalizing s with
  | zero => exact transfer_refusedAtU6U7 idle s
  | succ n ih =>
    refine refusedAtU6U7_then (transfer_refusedAtU6U7 idle s) fun _ t => ?_
    split
    · trivial
    · exact ih t

theorem sdCmd_refusedAtU6U7 (bytes : List Byte) (s : State) : RefusedAtU6U7 (sdCmd bytes s) :=
  refusedAtU6U7_then (execSpiCs_refusedAtU6U7 .hold s) fun _ t =>
    refusedAtU6U7_then (transfer_refusedAtU6U7 idle t) fun _ t =>
      refusedAtU6U7_then (transfers_refusedAtU6U7 bytes t) fun _ t => pollResponse_refusedAtU6U7 _ t

theorem cmdEnd_refusedAtU6U7 (s : State) : RefusedAtU6U7 (cmdEnd s) :=
  refusedAtU6U7_then (transfer_refusedAtU6U7 idle s) fun _ t => access_refusedAtU6U7 (execSpiCs_refusedAtU6U7 .auto) t

/-! Command units. -/

/-- What every command unit does, whatever it sends and checks. -/
structure IsCommandUnit (unit : State → Accessed CmdResult) : Prop where
  pending : ∀ s, s.txq ≠ [] → unit s = .refused .writeWhileSending
  quiescent : ∀ s, Quiescent s → ∃ c t, unit s = .done c t
  refused : ∀ s, RefusedAtU6U7 (unit s)

theorem unitRun_isCommandUnit {bytes : List Byte} (hb : bytes.length = 6) (n : Nat)
    (verdict : Byte → List Byte → Option HostCode) : IsCommandUnit (unitRun bytes n verdict) where
  pending s h := by rw [unitRun, sdCmd_of_pending bytes s h, accThen]
  quiescent s h := by
    obtain ⟨r, e, t, hdone, -⟩ := unitRun_done bytes n verdict s hb h
    exact ⟨_, t, hdone⟩
  refused s :=
    refusedAtU6U7_then (sdCmd_refusedAtU6U7 bytes s) fun _ t =>
      refusedAtU6U7_then (idleBytes_refusedAtU6U7 n t) fun _ t =>
        refusedAtU6U7_then (cmdEnd_refusedAtU6U7 t) fun _ _ => trivial

theorem cmd18Run_isCommandUnit {bytes : List Byte} (hb : bytes.length = 6) : IsCommandUnit (cmd18Run bytes) where
  pending s h := by rw [cmd18Run, sdCmd_of_pending bytes s h, accThen]
  quiescent s h := by
    obtain ⟨_, _, _, t, -, -, -, ⟨-, hdone, -⟩ | ⟨-, hdone, -⟩⟩ := cmd18Run_done bytes s hb h
    · exact ⟨_, t, hdone⟩
    · exact ⟨_, t, hdone⟩
  refused s := by
    refine refusedAtU6U7_then (sdCmd_refusedAtU6U7 bytes s) fun r t => ?_
    split
    · trivial
    · exact refusedAtU6U7_then (cmdEnd_refusedAtU6U7 t) fun _ _ => trivial

/-- The eight frames are command units. -/
theorem exec_frame_eq_commandUnit {i : Instr} (hi : isFrame i = true) :
    ∃ unit, IsCommandUnit unit ∧ exec i = commandUnit unit := by
  cases i <;> simp only [isFrame, Bool.false_eq_true] at hi
  case cmd18 lba crc => exact ⟨_, cmd18Run_isCommandUnit rfl, rfl⟩
  all_goals exact ⟨_, unitRun_isCommandUnit rfl _ _, rfl⟩

/-- A command unit has a next state where its accesses are done, and is refused where one of them is. -/
theorem commandUnit_cases {unit : State → Accessed CmdResult} (hu : IsCommandUnit unit) (s : State) :
    (∃ c t, unit s = .done c t ∧ commandUnit unit s = .next (t.setCmd c)) ∨
    (∃ r, unit s = .refused r ∧ commandUnit unit s = .refused r) := by
  rw [commandUnit_eq (hu.quiescent s)]
  cases unit s with
  | done c t => exact .inl ⟨c, t, rfl, rfl⟩
  | refused r => exact .inr ⟨r, rfl, rfl⟩

section Frames

variable {i : Instr} {s : State} (hi : isFrame i = true)
include hi

theorem exec_frame_of_pending (h : s.txq ≠ []) : exec i s = .refused .writeWhileSending := by
  obtain ⟨unit, hu, e⟩ := exec_frame_eq_commandUnit hi
  rw [e]
  rcases commandUnit_cases hu s with ⟨c, t, hdone, -⟩ | ⟨r, hrefused, e⟩
  · rw [hu.pending s h] at hdone; cases hdone
  · rw [hu.pending s h] at hrefused; cases hrefused; exact e

theorem exec_frame_of_quiescent (h : Quiescent s) : ∃ t, exec i s = .next t := by
  obtain ⟨unit, hu, e⟩ := exec_frame_eq_commandUnit hi
  obtain ⟨c, t, hdone⟩ := hu.quiescent s h
  exact ⟨_, by rw [e]; exact commandUnit_done hdone⟩

theorem exec_frame_refused {r : Refusal} (he : exec i s = .refused r) : r = .receiveOverflow ∨ r = .writeWhileSending := by
  obtain ⟨unit, hu, e⟩ := exec_frame_eq_commandUnit hi
  rw [e] at he
  rcases commandUnit_cases hu s with ⟨c, t, -, e⟩ | ⟨r', hrefused, e⟩ <;> rw [e] at he <;> cases he
  have h := hu.refused s
  rwa [hrefused] at h

end Frames

/-- Settles O39: two register operations have a test of their own, and a frame that is refused is a command unit with an access
refused, which from a quiescent unit none is. -/
theorem instructionsAreRefusedOnlyWhereUnspecified : Obligations.InstructionsAreRefusedOnlyWhereUnspecified := by
  intro i s
  refine ⟨fun hi r => ?_, fun hi => ⟨exec_frame_of_pending hi, exec_frame_of_quiescent hi, fun r hq he => ⟨?_, ?_⟩⟩,
    next_or_refused _⟩
  · cases i <;> simp only [isFrame, Bool.true_eq_false] at hi
    case spiDiv d => exact exec_spiDiv_refused_iff d s r
    case spiCs m => exact exec_spiCs_refused_iff m s r
    all_goals exact iff_of_false nofun id
  · intro hrx
    obtain ⟨t, hnext⟩ := exec_frame_of_quiescent hi ⟨hq, hrx⟩
    rw [hnext] at he
    cases he
  · exact exec_frame_refused hi he

end Sys2Proof.Proofs
end

section
/-!
PROOFS. The host's accesses as turns of the total order of all steps (spec/43_host_sequences.md R180, R181, R183, R184;
spec/20_memory.md R64): what one step of a command frame does, a run of register operations and shifter turns does, and the poll
loop of a transfer is such a run.
-/
namespace Sys2Proof.Proofs

open Sys2Proof.Machine Sys2Proof.Laws

/-- A turn of the host that issues the word of an instruction runs the instruction. -/
theorem step_of_encode {s : State} {i : Instr} {rest : List Turn} (h : s.agenda = .host (.word (encode i)) :: rest) :
    step s = exec i (s.setAgenda rest) :=
  (step_of_itemWord_ok h rfl).1 i (decodeOfEncodeIsTheInstruction i)

/-! A command frame by turns. -/

/-- The state `t` with the turns `rest` still to come, and with the pace and the record of the last command that `s` has: the
fields in which a command frame and its accesses one by one may differ. -/
def placedAs (s t : State) (rest : List Turn) : State :=
  { t with agenda := rest, cmd := s.cmd, pace := s.pace }

section PlacedAs

variable (s t : State) (rest : List Turn)

theorem enqueue_placedAs (b : Byte) : (placedAs s t rest).enqueue b = placedAs s (t.enqueue b) rest := by
  rcases enqueue_cases t b with ⟨hroom, e⟩ | ⟨hfull, e⟩
  · have hroom' : txFull (placedAs s t rest) = false := hroom
    rw [e, State.enqueue, hroom']
    rfl
  · have hfull' : txFull (placedAs s t rest) = true := hfull
    rw [e, State.enqueue, hfull']
    rfl

theorem receive_placedAs : (placedAs s t rest).receive = placedAs s t.receive rest := by
  rcases receive_cases t with ⟨h, e⟩ | ⟨r, q, h, e⟩
  · rw [e, receive_of_empty (s := placedAs s t rest) h]
    rfl
  · rw [e, receive_of_cons (s := placedAs s t rest) h]
    rfl

theorem shift_placedAs (h : t.txq = [] ∨ rxFull t = false) :
    shift (placedAs s t rest) = .next (placedAs s t.shifted rest) := by
  rcases shifted_cases t with ⟨hq, e⟩ | ⟨b, q, hq, e⟩ <;> rw [e]
  · exact shift_of_empty (s := placedAs s t rest) hq
  · have hroom : t.rxq.length ≠ Config.fifoDepth := by
      have hfull := h.resolve_left (by simp [hq])
      simpa [rxFull] using hfull
    rw [shift_of_room (s := placedAs s t rest) hq hroom]
    rfl

end PlacedAs

/-- Turns of a host sequence lead from `s` to `t`, whatever comes after them. -/
structure ReachedByTurns (s t : State) : Prop where
  agenda : t.agenda = s.agenda
  turns : ∃ turns : List Turn, (∀ turn ∈ turns, IsSequenceTurn turn)
    ∧ ∀ rest, RunsTo turns.length (placedAs s s (turns ++ rest)) (placedAs s t rest)

theorem reachedByTurns_refl (s : State) : ReachedByTurns s s :=
  ⟨rfl, [], nofun, fun _ => runsTo_zero _⟩

/-- One more turn. -/
theorem reachedByTurns_turn {s t u : State} {turn : Turn} (h : ReachedByTurns s t) (hu : u.agenda = t.agenda)
    (hturn : IsSequenceTurn turn)
    (hstep : ∀ rest, step (placedAs s t (turn :: rest)) = .next (placedAs s u rest)) : ReachedByTurns s u := by
  obtain ⟨turns, hall, hrun⟩ := h.turns
  refine ⟨hu.trans h.agenda, turns ++ [turn], ?_, fun rest => ?_⟩
  · rintro x hx
    rcases List.mem_append.1 hx with hx | hx
    · exact hall x hx
    · rwa [List.mem_singleton.1 hx]
  · rw [List.append_assoc, List.length_append]
    exact runsTo_add (hrun _) ((runsTo_succ (hstep rest)).2 (runsTo_zero _))

/-- Every update that the accesses of a command frame are made of is a turn, or changes no field that the turns see. -/
theorem reachedByTurns_keptByAccesses (s : State) : KeptByAccesses (ReachedByTurns s) where
  pace _ _ h := ⟨h.agenda, h.turns⟩
  cmd _ _ h := ⟨h.agenda, h.turns⟩
  mode t m hq h := reachedByTurns_turn h rfl (.inr (.inr (.inr ⟨m, rfl⟩))) fun rest => by
    rw [step_of_encode rfl]
    exact exec_spiCs_of_empty (csModeOfBits_csModeBits m) hq
  enqueue t b h := reachedByTurns_turn h (by simp) (.inr (.inr (.inl ⟨b, rfl⟩))) fun rest => by
    rw [step_of_encode rfl]
    exact congrArg Host.Outcome.next (enqueue_placedAs s t rest b)
  receive t h := reachedByTurns_turn h (by simp) (.inr (.inl rfl)) fun rest => by
    rw [step_of_encode rfl]
    exact congrArg Host.Outcome.next (receive_placedAs s t rest)
  shifted t hs h := reachedByTurns_turn h (by simp) (.inl rfl) fun rest => by
    rw [step_of_shifterTurn rfl]
    exact shift_placedAs s t rest hs

/-- Settles O57: what the accesses of a frame keep holds after it, and they keep that turns have led where they are. -/
theorem everyCommandUnitIsASequenceOfRegisterAccesses : Obligations.EveryCommandUnitIsASequenceOfRegisterAccesses := by
  intro i s t hi he
  have h := execFrame_keeps (reachedByTurns_keptByAccesses s) hi he (reachedByTurns_refl s)
  obtain ⟨turns, hall, hrun⟩ := h.turns
  refine ⟨turns, hall, ?_⟩
  have hend : placedAs s t s.agenda = { t with cmd := s.cmd, pace := s.pace } := by rw [placedAs, ← h.agenda]
  rw [← hend]
  exact hrun s.agenda

/-! A transfer by turns. -/

section Runs

variable {n : Nat} {s t u : State} {rest : List Turn}

/-- A run whose first turn is an instruction of the host. -/
theorem runsTo_encode {i : Instr} (he : exec i (s.setAgenda rest) = .next t) (h : RunsTo n t u) :
    RunsTo (n + 1) (s.setAgenda (.host (.word (encode i)) :: rest)) u :=
  (runsTo_succ ((step_of_encode (setAgenda_agenda ..)).trans he)).2 h

/-- A run whose first turn is the shifter's. -/
theorem runsTo_shifter (hs : shift (s.setAgenda rest) = .next t) (h : RunsTo n t u) :
    RunsTo (n + 1) (s.setAgenda (.shifter :: rest)) u :=
  (runsTo_succ ((step_of_shifterTurn (setAgenda_agenda ..)).trans hs)).2 h

end Runs

/-- Reads of an empty receive FIFO: each draws a free value, and only the word of the last is left. -/
theorem runsTo_emptyReads (k : Nat) (s : State) (hr : s.rxq = []) (rest : List Turn) :
    ∃ w, RunsTo k (s.setAgenda (List.replicate k (.host (.word (encode .spiRx))) ++ rest))
      { s with agenda := rest, rdata := w, draws := s.draws + k } := by
  induction k generalizing s with
  | zero => exact ⟨s.rdata, runsTo_zero _⟩
  | succ k ih =>
    obtain ⟨w, hrun⟩ := ih (s.bumpDraws.setRdata (sentinelWord (Config.anyWord s.draws))) hr
    refine ⟨w, runsTo_encode (congrArg Host.Outcome.next (receive_of_empty hr)) ?_⟩
    rw [Nat.add_comm k, ← Nat.add_assoc]
    exact hrun

/-- The write of a transfer from a quiescent unit. -/
theorem exec_spiTx_of_empty (s : State) (b : Byte) (h : s.txq = []) :
    exec (.spiTx b) s = .next { s with txq := [b], sent := s.sent ++ [b] } := by
  have hroom : s.txq.length ≠ Config.fifoDepth := by
    rw [h]
    exact Nat.ne_of_lt fifoDepth_pos
  rw [exec, execSpiTx, enqueue_of_room b hroom, h, List.nil_append]

/-- A quiescent unit after one exchange of the byte `b` and the read of its reply. -/
def replied (s : State) (b : Byte) : State :=
  { s with
    wire := s.wire ++ [.exchange (csLevel s.mode) b (cardByte s b)]
    script := s.script.tail
    rdata := some (readField (cardByte s b))
    taken := s.taken ++ [cardByte s b] }

/-- The exchange of the one byte queued, and the read of its reply. -/
theorem runsTo_exchange_read (s : State) (b : Byte) (h : Quiescent s) (rest : List Turn) :
    RunsTo 2 ({ s with txq := [b] }.setAgenda (.shifter :: .host (.word (encode .spiRx)) :: rest))
      ((replied s b).setAgenda rest) := by
  obtain ⟨htx, hrx⟩ := h
  have hroom : s.rxq.length ≠ Config.fifoDepth := by
    rw [hrx]
    exact Nat.ne_of_lt fifoDepth_pos
  have hread : exec .spiRx (({ s with txq := [b] }.exchangeByte b).setAgenda rest) =
      .next ((replied s b).setAgenda rest) := by
    have hreply : (({ s with txq := [b] }.exchangeByte b).setAgenda rest).rxq = [cardByte s b] :=
      congrArg (· ++ [cardByte s b]) hrx
    rw [exec, execSpiRx, receive_of_cons hreply]
    simp [replied, State.exchangeByte, State.setAgenda, cardByte, htx, hrx]
  exact runsTo_shifter (shift_of_room (s := { s with txq := [b] }.setAgenda _) rfl hroom)
    (runsTo_encode hread (runsTo_zero _))

/-- The turns of a transfer from a quiescent unit: the write, `k` reads of the empty FIFO, the exchange, the read of the
reply. -/
theorem runsTo_transfer (k : Nat) (s : State) (b : Byte) (h : Quiescent s) :
    RunsTo (k + 3)
      (s.setAgenda ([.host (.word (encode (.spiTx b)))] ++ List.replicate k (.host (.word (encode .spiRx)))
        ++ [.shifter, .host (.word (encode .spiRx))] ++ s.agenda))
      { replied s b with sent := s.sent ++ [b], draws := s.draws + k } := by
  obtain ⟨w, hreads⟩ := runsTo_emptyReads k { s with txq := [b], sent := s.sent ++ [b] } h.2
    ([.shifter, .host (.word (encode .spiRx))] ++ s.agenda)
  have hreply := runsTo_exchange_read { s with sent := s.sent ++ [b], rdata := w, draws := s.draws + k } b h s.agenda
  rw [List.append_assoc, List.append_assoc, List.singleton_append]
  exact runsTo_encode (exec_spiTx_of_empty _ b h.1) (runsTo_add hreads hreply)

/-- Settles O47: the transfer makes as many reads of the empty FIFO as the pace holds the shifter back for, and so do the
turns. -/
theorem transferPollsUntilTheReply : Obligations.TransferPollsUntilTheReply := by
  intro s b h
  exact ⟨_, transfer_of_quiescent s b h, h, rfl, rfl, rfl, runsTo_transfer (heldReads s.pace) s b h⟩

end Sys2Proof.Proofs
end

section
/-!
PROOFS. The eight command units from a quiescent unit (spec/43_host_sequences.md R183 to R195; spec/60_exceptions.md R223, R226):
the seven that release chip select at their end are one argument over the frame, the number of trailing bytes and the verdict;
CMD18 ends in HOLD or as they do.
-/
namespace Sys2Proof.Proofs

open Sys2Proof.Machine Sys2Proof.Laws

/-! The units that release chip select at their end. -/

/-- The command frames whose unit ends with `cmd_end` whatever the card answers: all but CMD18 (R184, R195). -/
def releasingFrames : List Instr := [.cmd0, .cmd8, .cmd55, .acmd41, .cmd58, .cmd16, .cmd12]

/-- The verdict of a command on its response and its trailing bytes (R189 to R193). -/
def unitVerdict : Instr → Byte → List Byte → Option HostCode
  | .cmd0, r, _ => checked (r == 0x01)
  | .cmd8, r, e => checked (cmd8Check r e)
  | .acmd41, r, _ => acmd41Verdict r
  | .cmd58, r, e => checked (cmd58Check r e)
  | .cmd16, r, _ => checked (r == 0x00)
  | _, _, _ => none

/-- What the seven units have in common: the bytes of the frame, the trailing bytes of R99, the verdict. -/
theorem exec_eq_unitRun : ∀ i ∈ releasingFrames, ∀ s,
    exec i s = commandUnit (unitRun (frameBytes i) (trailingBytes i) (unitVerdict i)) s := by
  simp only [releasingFrames, List.forall_mem_cons]
  exact ⟨fun _ => rfl, fun _ => rfl, fun _ => rfl, fun _ => rfl, fun _ => rfl, fun _ => rfl, fun _ => rfl, nofun⟩

/-- The record of a command's result is no part of what a unit did on the wire. -/
theorem unitDone_setCmd {bytes trail : List Byte} {n : Nat} {s t : State} {r : Byte} (c : CmdResult)
    (h : UnitDone bytes n s t r trail) : UnitDone bytes n s (t.setCmd c) r trail := h

/-- A unit that releases chip select, from a quiescent unit: what it did, and the result it records. -/
theorem exec_releasing {i : Instr} {s : State} (hi : i ∈ releasingFrames) (h : Quiescent s) :
    ∃ t r e, exec i s = .next t ∧ UnitDone (frameBytes i) (trailingBytes i) s t r e
      ∧ t.cmd = some ⟨r, e, unitVerdict i r e⟩ := by
  obtain ⟨r, e, t, hrun, hdone⟩ := unitRun_done (frameBytes i) (trailingBytes i) (unitVerdict i) s rfl h
  refine ⟨_, r, e, ?_, unitDone_setCmd _ hdone, rfl⟩
  rw [exec_eq_unitRun i hi]
  exact commandUnit_done hrun

theorem trail_length {bytes trail : List Byte} {n : Nat} {s t : State} {r : Byte} (h : UnitDone bytes n s t r trail) :
    trail.length = n := by
  obtain ⟨_, _, _, -, -, hlength, -⟩ := h
  exact hlength

/-- A unit without trailing bytes that releases chip select, its verdict a function of the response. -/
theorem exec_releasing_untrailed {i : Instr} {s : State} (hi : i ∈ releasingFrames) (hn : trailingBytes i = 0)
    {verdict : Byte → Option HostCode} (hv : ∀ r, unitVerdict i r [] = verdict r) (h : Quiescent s) :
    ∃ t r, exec i s = .next t ∧ UnitDone (frameBytes i) 0 s t r [] ∧ t.cmd = some ⟨r, [], verdict r⟩ := by
  obtain ⟨t, r, e, hnext, hdone, hcmd⟩ := exec_releasing hi h
  have he : e = [] := List.eq_nil_of_length_eq_zero ((trail_length hdone).trans hn)
  rw [he, hn] at hdone
  rw [he, hv] at hcmd
  exact ⟨t, r, hnext, hdone, hcmd⟩

/-! The checks (R187). -/

theorem checked_eq {pass : Bool} {p : Prop} [Decidable p] (h : pass = true ↔ p) :
    checked pass = some (if p then .ok else .checkFailed) := by
  simp only [checked, h]

/-- The check of CMD8 on its four trailing bytes (R99, R190). -/
theorem cmd8Check_iff {r : Byte} {e : List Byte} (he : e.length = 4) :
    cmd8Check r e = true ↔ r = 0x01 ∧ (e.getD 2 0).extractLsb' 0 4 = 1 ∧ e.getD 3 0 = 0xAA := by
  obtain ⟨e0, e1, e2, e3, rfl⟩ := List.length_eq_four.1 he
  simp [cmd8Check, and_assoc]

/-- The check of CMD58 on its four trailing bytes (R99, R192). -/
theorem cmd58Check_iff {r : Byte} {e : List Byte} (he : e.length = 4) :
    cmd58Check r e = true ↔ r = 0x00 ∧ (e.getD 0 0).getLsbD 7 = true := by
  obtain ⟨e0, e1, e2, e3, rfl⟩ := List.length_eq_four.1 he
  simp [cmd58Check]

/-- The verdict of ACMD41 on its response (R191). -/
theorem acmd41Verdict_eq (r : Byte) :
    acmd41Verdict r = if r = 0x01 then none else some (if r = 0x00 then .ok else .checkFailed) := by
  rw [acmd41Verdict, checked_eq beq_iff_eq]

/-- Settles O48. -/
theorem cmd0UnitOnTheWire : Obligations.Cmd0UnitOnTheWire := fun _ =>
  exec_releasing_untrailed (i := .cmd0) (by decide) rfl fun _ => checked_eq beq_iff_eq

/-- Settles O49. -/
theorem cmd8UnitOnTheWire : Obligations.Cmd8UnitOnTheWire := by
  intro s h
  obtain ⟨t, r, e, hnext, hdone, hcmd⟩ := exec_releasing (i := .cmd8) (by decide) h
  rw [unitVerdict, checked_eq (cmd8Check_iff (trail_length hdone))] at hcmd
  exact ⟨t, r, e, hnext, hdone, hcmd⟩

/-- Settles O50. -/
theorem cmd55UnitOnTheWire : Obligations.Cmd55UnitOnTheWire := fun _ =>
  exec_releasing_untrailed (i := .cmd55) (by decide) rfl fun _ => rfl

/-- Settles O51. -/
theorem acmd41UnitOnTheWire : Obligations.Acmd41UnitOnTheWire := fun _ =>
  exec_releasing_untrailed (i := .acmd41) (by decide) rfl acmd41Verdict_eq

/-- Settles O52. -/
theorem cmd58UnitOnTheWire : Obligations.Cmd58UnitOnTheWire := by
  intro s h
  obtain ⟨t, r, e, hnext, hdone, hcmd⟩ := exec_releasing (i := .cmd58) (by decide) h
  rw [unitVerdict, checked_eq (cmd58Check_iff (trail_length hdone))] at hcmd
  exact ⟨t, r, e, hnext, hdone, hcmd⟩

/-- Settles O53. -/
theorem cmd16UnitOnTheWire : Obligations.Cmd16UnitOnTheWire := fun _ =>
  exec_releasing_untrailed (i := .cmd16) (by decide) rfl fun _ => checked_eq beq_iff_eq

/-- Settles O54. -/
theorem cmd12UnitOnTheWire : Obligations.Cmd12UnitOnTheWire := fun _ =>
  exec_releasing_untrailed (i := .cmd12) (by decide) rfl fun _ => rfl

/-! CMD18. -/

/-- Settles O55: held on a response 00, ended on any other. -/
theorem cmd18UnitOnTheWire : Obligations.Cmd18UnitOnTheWire := by
  intro s lba crc h
  obtain ⟨r, lead, polls, t, hlead, hpolls, hq, hend⟩ := cmd18Run_done (cmdBytes 0x52 lba (crcbyte crc)) s rfl h
  rcases hend with ⟨hr, hrun, hwire, hmode, hrdata⟩ | ⟨hr, hrun, last, hwire, hmode, hrdata⟩
  · exact ⟨_, r, lead, polls, commandUnit_done hrun, hlead, hpolls, hq, fun _ => ⟨hwire, hmode, hrdata, rfl⟩,
      fun hne => absurd hr hne⟩
  · exact ⟨_, r, lead, polls, commandUnit_done hrun, hlead, hpolls, hq, fun heq => absurd heq hr,
      fun _ => ⟨last, hwire, hmode, hrdata, rfl⟩⟩

/-! Timeouts (R186). -/

/-- Without a response the byte is neither of the two that a check asks for. -/
theorem ne_of_not_isResponse {r : Byte} (h : isResponse r = false) : r ≠ 0x00 ∧ r ≠ 0x01 := by
  constructor <;> rintro rfl <;> cases h

/-- CMD8's check fails where the response is not the one it asks for, whatever the trailing bytes. -/
theorem cmd8Check_of_ne {r : Byte} (e : List Byte) (h : r ≠ 0x01) : cmd8Check r e = false := by
  unfold cmd8Check
  split
  · rw [beq_eq_false_iff_ne.2 h, Bool.false_and, Bool.false_and]
  · rfl

/-- As `cmd8Check_of_ne`, of CMD58. -/
theorem cmd58Check_of_ne {r : Byte} (e : List Byte) (h : r ≠ 0x00) : cmd58Check r e = false := by
  unfold cmd58Check
  split
  · rw [beq_eq_false_iff_ne.2 h, Bool.false_and]
  · rfl

/-- The commands that have a check, and release chip select whatever it says (R189 to R193). -/
def checkedFrames : List Instr := [.cmd0, .cmd8, .acmd41, .cmd58, .cmd16]

theorem unitVerdict_of_timeout {r : Byte} (e : List Byte) (h : isResponse r = false) :
    ∀ i ∈ checkedFrames, unitVerdict i r e = some .checkFailed := by
  obtain ⟨h0, h1⟩ := ne_of_not_isResponse h
  have hfailed : checked false = some .checkFailed := rfl
  simp only [checkedFrames, List.forall_mem_cons]
  refine ⟨?_, ?_, ?_, ?_, ?_, nofun⟩ <;> rw [unitVerdict]
  case refine_1 => rw [beq_eq_false_iff_ne.2 h1, hfailed]
  case refine_2 => rw [cmd8Check_of_ne e h1, hfailed]
  case refine_3 => rw [acmd41Verdict, if_neg h1, beq_eq_false_iff_ne.2 h0, hfailed]
  case refine_4 => rw [cmd58Check_of_ne e h0, hfailed]
  case refine_5 => rw [beq_eq_false_iff_ne.2 h0, hfailed]

/-- The checked commands release chip select at their end. -/
theorem mem_releasingFrames_of_checked : ∀ i ∈ checkedFrames, i ∈ releasingFrames := by decide

/-- Settles O56: no check accepts a byte whose high bit is set, and CMD18 goes on only on 00. -/
theorem timeoutFailsEveryCheck : Obligations.TimeoutFailsEveryCheck := by
  intro i s t c h he hc hr
  constructor
  · intro hi
    obtain ⟨t', r, e, hnext, -, hcmd⟩ := exec_releasing (mem_releasingFrames_of_checked i hi) h
    cases he.symm.trans hnext
    cases hc.symm.trans hcmd
    exact unitVerdict_of_timeout e hr i hi
  · rintro lba crc rfl
    obtain ⟨t', r, _, _, hnext, -, -, -, hheld, hended⟩ := cmd18UnitOnTheWire s lba crc h
    cases he.symm.trans hnext
    by_cases h0 : r = 0x00
    · obtain ⟨-, -, -, hcmd⟩ := hheld h0
      cases hc.symm.trans hcmd
      exact absurd h0 (ne_of_not_isResponse hr).1
    · obtain ⟨-, -, -, -, hcmd⟩ := hended h0
      cases hc.symm.trans hcmd
      rfl

end Sys2Proof.Proofs
end

section
/-!
PROOFS. What a host sequence comes to from a quiescent unit (spec/43_host_sequences.md R180, R188; spec/70_reset_and_hazards.md
R260, R265): sequences that are never refused, with what holds where they end; the wire and the ghost fields from one part of a
sequence to the next; power-on; the command units as parts of a sequence.
-/
namespace Sys2Proof.Proofs

open Sys2Proof.Machine Sys2Proof.Laws

/-! Sequences that meet no refusal. -/

/-- The sequence is not refused, and where it ends it ends as `P` says. -/
def EndsIn {α : Type} (P : α → State → Prop) (x : Ran α) : Prop :=
  match x with
  | .done a t => P a t
  | .refused _ => False
  | .waiting => True

theorem endsIn_then {α β : Type} {P : α → State → Prop} {Q : β → State → Prop} {x : Ran α} {f : α → State → Ran β}
    (hx : EndsIn P x) (hf : ∀ a t, P a t → EndsIn Q (f a t)) : EndsIn Q (seqThen x f) := by
  cases x with
  | done a t => exact hf a t hx
  | refused r => exact hx
  | waiting => trivial

theorem endsIn_mono {α : Type} {P Q : α → State → Prop} {x : Ran α} (hx : EndsIn P x) (h : ∀ a t, P a t → Q a t) :
    EndsIn Q x := by
  cases x with
  | done a t => exact h a t hx
  | refused r => exact hx
  | waiting => trivial

theorem endsIn_of_eq {α : Type} {P : α → State → Prop} {x : Ran α} {a : α} {t : State} (hx : x = .done a t) (h : P a t) :
    EndsIn P x := by
  rw [hx]
  exact h

theorem of_endsIn {α : Type} {P : α → State → Prop} {x : Ran α} {a : α} {t : State} (hx : EndsIn P x)
    (h : x = .done a t) : P a t := by
  rwa [h] at hx

/-! From one part of a sequence to the next. -/

/-- From `s` to `t` exactly the events `ev` happened on the wire, and at the end the unit is quiescent in mode `m`; neither U1
nor U5 has been met, and no free value drawn where the shifter has every turn. The CRC units and the divider may have
changed. -/
def HostRun (s t : State) (m : CsMode) (ev : List WireEvent) : Prop :=
  t.wire = s.wire ++ ev ∧ t.mode = m ∧ Quiescent t ∧ t.txLost = s.txLost ∧ t.u1Met = s.u1Met ∧ t.pace <:+ s.pace
    ∧ (s.pace = [] → t.draws = s.draws)

section HostRun

variable {s t u : State} {m m' : CsMode} {a b ev : List WireEvent}

theorem hostRun_refl (h : Quiescent s) : HostRun s s s.mode [] :=
  ⟨(List.append_nil _).symm, rfl, h, rfl, rfl, List.suffix_rfl, fun _ => rfl⟩

theorem hostRun_trans (h : HostRun s t m a) (h' : HostRun t u m' b) : HostRun s u m' (a ++ b) := by
  obtain ⟨hwire, -, -, htx, hu1, hpace, hdraws⟩ := h
  obtain ⟨hwire', hmode, hq, htx', hu1', hpace', hdraws'⟩ := h'
  refine ⟨by rw [hwire', hwire, List.append_assoc], hmode, hq, htx'.trans htx, hu1'.trans hu1, hpace'.trans hpace,
    fun hp => (hdraws' ?_).trans (hdraws hp)⟩
  rwa [hp, List.suffix_nil] at hpace

theorem hostRun_quiescent (h : HostRun s t m ev) : Quiescent t := by
  obtain ⟨-, -, hq, -⟩ := h
  exact hq

theorem hostRun_mode (h : HostRun s t m ev) : t.mode = m := by
  obtain ⟨-, hm, -⟩ := h
  exact hm

theorem hostRun_wire (h : HostRun s t m ev) : t.wire = s.wire ++ ev := h.1

theorem hostRun_of_wireRun (h : WireRun s t ev) (hq : Quiescent t) (hm : t.mode = m) : HostRun s t m ev := by
  obtain ⟨hwire, -, -, -, -, -, -, -, -, -, -, htx, hu1, -, hpace, hdraws⟩ := h
  exact ⟨hwire, hm, hq, htx, hu1, hpace, hdraws⟩

/-- An access where no byte is queued uses up one element of the pace. -/
theorem hostRun_setPace_tail (h : Quiescent s) : HostRun s (s.setPace s.pace.tail) s.mode [] :=
  hostRun_of_wireRun (setPace_tail_run s) h rfl

end HostRun

/-- A sequence that ends in AUTO with such a run ends cleanly. -/
theorem endsCleanly_of_endsIn {α : Type} {s : State} {x : Ran α} (h : EndsIn (fun _ t => ∃ ev, HostRun s t .auto ev) x) :
    EndsCleanly s x := by
  cases x with
  | done a t =>
    obtain ⟨ev, -, hmode, hq, htx, hu1, -, hdraws⟩ := h
    exact ⟨hq, hmode, htx, hu1, hdraws⟩
  | refused r => exact h
  | waiting => trivial

/-! The accesses of power-on. -/

theorem seqOp_spiCs {s : State} {bits : BitVec 2} {m : CsMode} (hm : csModeOfBits bits = some m) (h : s.txq = []) :
    seqOp (.spiCs bits) s = .done () ((s.setPace s.pace.tail).setMode m) :=
  seqOp_of_next h (exec_spiCs_of_empty hm h)

theorem setPace_tail_setMode_run (s : State) (m : CsMode) : WireRun s ((s.setPace s.pace.tail).setMode m) [.mode m] :=
  wireRun_trans (setPace_tail_run s) (setMode_run _ m)

/-- Idle bytes in any mode: one exchange for each, at the level of the mode. -/
theorem seqIdles_run (n : Nat) (s : State) (h : Quiescent s) :
    ∃ t rs, seqIdles n s = .done () t ∧ rs.length = n
      ∧ WireRun s t (exchanges (csLevel s.mode) (List.replicate n idle) rs) ∧ Quiescent t := by
  induction n generalizing s with
  | zero => exact ⟨s, [], rfl, rfl, wireRun_refl s, h⟩
  | succ n ih =>
    obtain ⟨t, ht⟩ := transfer_run s idle h
    obtain ⟨u, rs, hrun, hlength, hwire, hq⟩ := ih t ht.quiescent
    rw [ht.mode] at hwire
    refine ⟨u, cardByte s idle :: rs, ?_, by rw [List.length_cons, hlength], wireRun_trans ht.run hwire, hq⟩
    rw [seqIdles, seqIdle, ht.eq]
    exact hrun

/-- The events of power-on after the divider is written (R188, R265). -/
def powerOnEvents (rs : List Byte) : List WireEvent :=
  .mode .off :: exchanges .deasserted (List.replicate rs.length idle) rs ++ [.mode .auto]

/-- Idle bytes between a write of OFF and a write of AUTO. -/
theorem idlesDeselected_run (n : Nat) (s : State) (h : Quiescent s) :
    ∃ t rs, (seqThen (seqOp (.spiCs 3) s) fun _ u => seqThen (seqIdles n u) fun _ v => seqOp (.spiCs 0) v) = .done () t
      ∧ rs.length = n ∧ WireRun s t (powerOnEvents rs) ∧ t.mode = .auto ∧ Quiescent t := by
  obtain ⟨t, rs, hidles, hlength, hwire, hq⟩ := seqIdles_run n ((s.setPace s.pace.tail).setMode .off) h
  refine ⟨(t.setPace t.pace.tail).setMode .auto, rs, ?_, hlength, ?_, rfl, hq⟩
  · rw [seqOp_spiCs (m := .off) rfl h.1, seqThen_of_done, hidles, seqThen_of_done, seqOp_spiCs (m := .auto) rfl hq.1]
  · rw [powerOnEvents, hlength]
    exact wireRun_trans (wireRun_trans (setPace_tail_setMode_run s .off) hwire) (setPace_tail_setMode_run t .auto)

/-- Power-on from a quiescent unit ends, and but for the divider it is a run of wire events. -/
theorem powerOn_run (d : BitVec 12) (more : Nat) (s : State) (h : Quiescent s) :
    ∃ t rs, powerOn d more s = .done () t ∧ rs.length = 10 + more ∧ WireRun (s.setDiv d) t (powerOnEvents rs)
      ∧ t.mode = .auto ∧ Quiescent t := by
  obtain ⟨t, rs, hrun, hlength, hwire, hend⟩ := idlesDeselected_run (10 + more) ((s.setPace s.pace.tail).setDiv d) h
  refine ⟨t, rs, ?_, hlength, wireRun_trans (a := []) (setPace_tail_run (s.setDiv d)) hwire, hend⟩
  rw [powerOn, seqOp_of_next h.1 (exec_spiDiv_of_empty d h.1)]
  exact hrun

/-- Settles O59. -/
theorem powerOnSendsIdleBytesWithChipSelectOff : Obligations.PowerOnSendsIdleBytesWithChipSelectOff := by
  intro s d more h
  obtain ⟨t, rs, hrun, hlength, ⟨hwire, -, -, -, -, -, -, hc7, hc16, hdiv, -⟩, hmode, -⟩ := powerOn_run d more s h
  refine ⟨t, rs, hrun, hlength, hdiv, hmode, hc7, hc16, ?_⟩
  rw [hwire, powerOnEvents, hlength]
  simp [idle]

/-! A command unit as one access of a sequence. -/

/-- The command `i` was run as one access of the host, with result `c`. -/
def CommandDone (i : Instr) (c : CmdResult) (s t : State) : Prop :=
  access (exec i) s = .done () t ∧ UnitDone (frameBytes i) (trailingBytes i) s t c.r1 c.trailing ∧ t.cmd = some c

/-- A frame that releases chip select, as an access from a quiescent unit: the turns before it do nothing. -/
theorem exists_commandDone {i : Instr} {s : State} (hi : i ∈ releasingFrames) (h : Quiescent s) :
    ∃ t r e, CommandDone i ⟨r, e, unitVerdict i r e⟩ s t := by
  obtain ⟨t, r, e, hnext, ⟨lead, polls, last, hlead, hpolls, htrail, hwire, hend⟩, hcmd⟩ :=
    exec_releasing (s := s.setPace s.pace.tail) hi h
  refine ⟨t, r, e, ?_, ⟨lead, polls, last, hlead, hpolls, htrail, ?_, hend⟩, hcmd⟩
  · rw [access_of_empty _ s h.1, hnext]
    rfl
  · exact wireRun_trans (a := []) (setPace_tail_run s) hwire

section CommandDone

variable {i : Instr} {c : CmdResult} {s t : State}

theorem seqCommand_of_commandDone (h : CommandDone i c s t) : seqCommand i s = .done c.verdict t := by
  obtain ⟨haccess, -, hcmd⟩ := h
  rw [seqCommand, seqOp, haccess]
  simp [seqOf, hcmd]

/-- A command unit that releases chip select is a run of a host sequence. -/
theorem hostRun_of_unitDone {bytes trail : List Byte} {n : Nat} {r : Byte} (h : UnitDone bytes n s t r trail) :
    ∃ lead polls last, lead.length = 7 ∧ PollsOf polls r ∧ HostRun s t .auto
      (sdCmdEvents bytes lead polls ++ exchanges .asserted (List.replicate n idle) trail ++ cmdEndEvents last) := by
  obtain ⟨lead, polls, last, hlead, hpolls, -, hwire, -, hmode, hq⟩ := h
  exact ⟨lead, polls, last, hlead, hpolls, hostRun_of_wireRun hwire hq hmode⟩

theorem sameC16_of_unitDone {bytes trail : List Byte} {n : Nat} {r : Byte} (h : UnitDone bytes n s t r trail) :
    SameC16 s t := by
  obtain ⟨_, _, _, -, -, -, ⟨-, -, -, -, -, -, -, -, hc16, -⟩, -⟩ := h
  exact hc16

theorem quiescent_of_commandDone (h : CommandDone i c s t) : Quiescent t := by
  obtain ⟨-, hunit, -⟩ := h
  obtain ⟨_, _, _, -, -, hrun⟩ := hostRun_of_unitDone hunit
  exact hostRun_quiescent hrun

end CommandDone

/-- CMD18 in a sequence (R195, R226): held on a response 00, ended with a verdict on any other. -/
theorem seqCommand_cmd18 (lba : BitVec 32) (crc : BitVec 7) (s : State) (h : Quiescent s) :
    ∃ t r lead polls, lead.length = 7 ∧ PollsOf polls r
      ∧ ((r = 0x00 ∧ seqCommand (.cmd18 lba crc) s = .done none t
          ∧ HostRun s t .hold (sdCmdEvents (cmdBytes 0x52 lba (crcbyte crc)) lead polls))
        ∨ (r ≠ 0x00 ∧ seqCommand (.cmd18 lba crc) s = .done (some .cmd18Failure) t
          ∧ ∃ last, HostRun s t .auto (sdCmdEvents (cmdBytes 0x52 lba (crcbyte crc)) lead polls ++ cmdEndEvents last))) := by
  obtain ⟨t, r, lead, polls, hnext, hlead, hpolls, hq, hheld, hended⟩ := cmd18UnitOnTheWire (s.setPace s.pace.tail) lba crc h
  have hop : seqOp (.cmd18 lba crc) s = .done () t := seqOp_of_next h.1 hnext
  have hpace := hostRun_setPace_tail h
  refine ⟨t, r, lead, polls, hlead, hpolls, ?_⟩
  by_cases hr : r = 0x00
  · obtain ⟨hwire, hmode, -, hcmd⟩ := hheld hr
    refine .inl ⟨hr, ?_, hostRun_trans (a := []) hpace (hostRun_of_wireRun hwire hq hmode)⟩
    rw [seqCommand, hop, seqThen_of_done, hcmd]
    rfl
  · obtain ⟨last, hwire, hmode, -, hcmd⟩ := hended hr
    refine .inr ⟨hr, ?_, last, hostRun_trans (a := []) hpace (hostRun_of_wireRun hwire hq hmode)⟩
    rw [seqCommand, hop, seqThen_of_done, hcmd]
    rfl

end Sys2Proof.Proofs
end

section
/-!
PROOFS. A block copy (spec/43_host_sequences.md R195 to R198; spec/60_exceptions.md R222, R226): the frame's CRC on the C7 unit,
the blocks on the C16 unit, and the whole copy on the wire.
-/
namespace Sys2Proof.Proofs

open Sys2Proof.Machine Sys2Proof.Laws

/-! The CRC byte of the frame, from the C7 unit (R104, R118). -/

/-- Folds of a sequence on a remainder that is held. -/
theorem foldl_seqOp_c7Fold (bs : List Byte) (s : State) (r : BitVec 7) (h : Quiescent s) (hr : s.c7Rem = some r) :
    ∃ t, bs.foldl (fun x b => seqThen x fun _ t => seqOp (.c7Fold b) t) (.done () s) = .done () t
      ∧ t.c7Rem = some (bs.foldl crc7 r) ∧ HostRun s t s.mode [] := by
  induction bs generalizing s r with
  | nil => exact ⟨s, rfl, hr, hostRun_refl h⟩
  | cons b bs ih =>
    have hfold : exec (.c7Fold b) (s.setPace s.pace.tail) = .next ((s.setPace s.pace.tail).setRem (crc7 r b)) :=
      congrArg Host.Outcome.next (foldRem_of_some b hr)
    obtain ⟨t, hrun, hrem, hhost⟩ := ih ((s.setPace s.pace.tail).setRem (crc7 r b)) (crc7 r b) h rfl
    refine ⟨t, ?_, hrem, hostRun_trans (hostRun_setPace_tail h) hhost⟩
    rw [List.foldl_cons, seqThen_of_done, seqOp_of_next h.1 hfold]
    exact hrun

/-- A read of a sequence: the word the instruction returns. -/
theorem seqRead_of_next {i : Instr} {s t : State} {w : Word} (h : Quiescent s)
    (he : exec i (s.setPace s.pace.tail) = .next (t.setRdata w)) : seqRead i s = .done w (t.setRdata w) := by
  rw [seqRead, seqOp_of_next h.1 he]
  rfl

/-- The sequence of R104 returns the CRC byte of R118, and leaves the wire as it was. -/
theorem seqFrameCrc_run (index : BitVec 6) (arg : BitVec 32) (s : State) (h : Quiescent s) :
    ∃ t, seqFrameCrc index arg s = .done (crcbyte (crc7seq (frameBody index arg))) t ∧ HostRun s t s.mode [] := by
  obtain ⟨t, hfolds, hrem, hhost⟩ :=
    foldl_seqOp_c7Fold (frameBody index arg) ((s.setPace s.pace.tail).setRem 0) 0 h rfl
  have hq := hostRun_quiescent hhost
  have hload : seqOp (.c7Ld 0) s = .done () ((s.setPace s.pace.tail).setRem 0) := seqOp_of_next h.1 rfl
  have hfin := seqRead_of_next (i := .c7Fin) hq
    (congrArg Host.Outcome.next (readRem_of_some (s := t.setPace t.pace.tail) crcbyte hrem))
  have hread : HostRun t ((t.setPace t.pace.tail).setRdata (readField (crcbyte (crc7seq (frameBody index arg))))) t.mode [] :=
    hostRun_setPace_tail hq
  rw [hostRun_mode hhost] at hread
  refine ⟨_, ?_, hostRun_trans (a := []) (hostRun_setPace_tail h) (hostRun_trans hhost hread)⟩
  rw [seqFrameCrc, hload]
  simp only [hfolds, seqThen_of_done, hfin]
  exact congrArg (Ran.done · _) (rxByte_readField _)

/-- The CRC7 field of a frame is the upper seven bits of its CRC byte. -/
theorem crcbyte_field (crc : BitVec 7) : (crcbyte crc).extractLsb' 1 7 = crc := BitVec.extractLsb'_append_eq_left

/-! The blocks (R195 to R198). -/

/-- The exchanges in which the host receives `got` by idle bytes, chip select asserted (R182). -/
def receivedEvents (got : List Byte) : List WireEvent := exchanges .asserted (List.replicate got.length idle) got

theorem receivedEvents_append (a b : List Byte) : receivedEvents (a ++ b) = receivedEvents a ++ receivedEvents b := by
  rw [receivedEvents, List.length_append, List.replicate_add]
  exact List.zipWith_append List.length_replicate

/-- From `s` to `t` the host received `got` by idle bytes in HOLD. -/
def Received (s t : State) (got : List Byte) : Prop := HostRun s t .hold (receivedEvents got)

section Received

variable {s t u : State} {a b : List Byte}

theorem received_refl (h : Quiescent s) (hm : s.mode = .hold) : Received s s [] := by
  have hrun := hostRun_refl h
  rwa [hm] at hrun

theorem received_trans (h : Received s t a) (h' : Received t u b) : Received s u (a ++ b) := by
  rw [Received, receivedEvents_append]
  exact hostRun_trans h h'

end Received

/-- One idle byte in HOLD: the byte received, which no CRC unit has seen. -/
theorem seqIdle_received (s : State) (h : Quiescent s) (hm : s.mode = .hold) :
    ∃ t r, seqIdle s = .done r t ∧ Received s t [r] ∧ SameC16 s t := by
  obtain ⟨t, r, hrun, hwire, hq, hmode, -⟩ := seqIdle_hold s h hm
  have hhost : HostRun s t .hold [.exchange .asserted idle r] := hostRun_of_wireRun hwire hq hmode
  obtain ⟨-, -, -, -, -, -, -, -, hc16, -⟩ := hwire
  exact ⟨t, r, hrun, hhost, hc16⟩

/-- An access between two bytes, of an operation that leaves the SPI unit alone. -/
theorem received_setPace_tail {s : State} (h : Quiescent s) (hm : s.mode = .hold) :
    Received s (s.setPace s.pace.tail) [] := by
  have hrun := hostRun_setPace_tail h
  rwa [hm] at hrun

/-- The token wait (R196): bytes that are no token, and the token. -/
theorem waitToken_endsIn (rounds : Nat) (s : State) (h : Quiescent s) (hm : s.mode = .hold) :
    EndsIn (fun _ t => ∃ fill, startToken ∉ fill ∧ Received s t (fill ++ [startToken])) (waitToken rounds s) := by
  induction rounds generalizing s with
  | zero => trivial
  | succ rounds ih =>
    obtain ⟨t, r, hidle, hrec, -⟩ := seqIdle_received s h hm
    rw [waitToken, hidle, seqThen_of_done]
    by_cases hr : r = startToken
    · rw [if_pos hr]
      subst hr
      exact ⟨[], nofun, hrec⟩
    · rw [if_neg hr]
      refine endsIn_mono (ih t (hostRun_quiescent hrec) (hostRun_mode hrec)) fun _ u hu => ?_
      obtain ⟨fill, hfill, hrec'⟩ := hu
      exact ⟨r :: fill, by simp [Ne.symm hr, hfill], received_trans (a := [r]) hrec hrec'⟩

/-- Data bytes are received and folded in their order (R197). -/
theorem readFolding_run (n : Nat) (s : State) (acc : BitVec 16) (h : Quiescent s) (hm : s.mode = .hold)
    (hacc : s.c16Acc = some acc) :
    ∃ t data, readFolding n s = .done data t ∧ data.length = n ∧ Received s t data
      ∧ t.c16Acc = some (data.foldl crc16 acc) := by
  induction n generalizing s acc with
  | zero => exact ⟨s, [], rfl, rfl, received_refl h hm, hacc⟩
  | succ n ih =>
    obtain ⟨t, r, hidle, hrec, hacc', -⟩ := seqIdle_received s h hm
    have hq := hostRun_quiescent hrec
    have hhold := hostRun_mode hrec
    have hfold := seqOp_of_next hq.1 (exec_c16Fold_of_some (s := t.setPace t.pace.tail) r (hacc'.trans hacc))
    obtain ⟨u, data, hrun, hlength, hrec', hend⟩ := ih ((t.setPace t.pace.tail).setAcc (crc16 acc r)) (crc16 acc r) hq hhold rfl
    refine ⟨u, r :: data, ?_, by rw [List.length_cons, hlength],
      received_trans hrec (received_trans (a := []) (received_setPace_tail hq hhold) hrec'), hend⟩
    rw [readFolding, hidle, seqThen_of_done, hfold, seqThen_of_done, hrun, seqThen_of_done]

/-- The check of a block and the read of its flag (R136, R137), on an accumulator that holds the block's CRC16. -/
theorem checkBlock_run (s : State) (data : List Byte) (hi lo : Byte) (h : Quiescent s) (hm : s.mode = .hold)
    (hacc : s.c16Acc = some (crc16seq data)) :
    ∃ t u w, seqOp (.c16Chk (expectedCrc hi lo)) s = .done () t ∧ seqRead .c16Stat t = .done w u
      ∧ (w != 0) = (!verify data hi lo) ∧ Received s u [] ∧ u.c16Acc = some (crc16seq data)
      ∧ u.c16Mismatch = some (!verify data hi lo) := by
  have hflag : (if crc16seq data = expectedCrc hi lo then false else true) = !verify data hi lo :=
    ite_crc16seq_eq_not_verify data hi lo
  have hchk := seqOp_of_next h.1 (exec_c16Chk_of_some (s := s.setPace s.pace.tail) (expectedCrc hi lo) hacc)
  rw [hflag] at hchk
  have hchecked : Received s ((s.setPace s.pace.tail).setMismatch (!verify data hi lo)) [] := received_setPace_tail h hm
  have hq := hostRun_quiescent hchecked
  refine ⟨_, _, _, hchk, seqRead_of_next hq (exec_c16Stat_of_some rfl), ?_,
    received_trans (a := []) hchecked (received_setPace_tail hq hm), hacc, rfl⟩
  cases verify data hi lo <;> rfl

/-- What the host reads of one block (R195): a block `x.1` of 512 bytes behind bytes that are no token, and the flag of its
check, the C16 unit left with the block's CRC16 and the flag. -/
def BlockRead (s : State) (x : Block × Bool) (t : State) : Prop :=
  ∃ fill, startToken ∉ fill ∧ x.1.data.length = 512 ∧ Received s t (blockBytes fill x.1)
    ∧ x.2 = !verify x.1.data x.1.hi x.1.lo ∧ t.c16Acc = some (crc16seq x.1.data) ∧ t.c16Mismatch = some x.2

theorem readBlock_endsIn (rounds : Nat) (s : State) (h : Quiescent s) (hm : s.mode = .hold) :
    EndsIn (BlockRead s) (readBlock rounds s) := by
  refine endsIn_then (waitToken_endsIn rounds s h hm) fun _ t ht => ?_
  obtain ⟨fill, hfill, hwait⟩ := ht
  have hq := hostRun_quiescent hwait
  have hhold := hostRun_mode hwait
  have hload : seqOp (.c16Ld 0) t = .done () ((t.setPace t.pace.tail).setAcc 0) := seqOp_of_next hq.1 rfl
  have hloaded : Received t ((t.setPace t.pace.tail).setAcc 0) [] := received_setPace_tail hq hhold
  obtain ⟨u, data, hread, hlength, hdata, hacc⟩ :=
    readFolding_run blockSize ((t.setPace t.pace.tail).setAcc 0) 0 hq hhold rfl
  obtain ⟨v, hi, hhi, hrechi, haccv, -⟩ := seqIdle_received u (hostRun_quiescent hdata) (hostRun_mode hdata)
  obtain ⟨w, lo, hlo, hreclo, haccw, -⟩ := seqIdle_received v (hostRun_quiescent hrechi) (hostRun_mode hrechi)
  obtain ⟨x, z, word, hcheck, hstat, hword, hrecz, haccz, hmis⟩ := checkBlock_run w data hi lo (hostRun_quiescent hreclo)
    (hostRun_mode hreclo) (haccw.trans (haccv.trans hacc))
  have hall := received_trans hwait (received_trans hloaded
    (received_trans hdata (received_trans hrechi (received_trans hreclo hrecz))))
  rw [hload, seqThen_of_done, hread, seqThen_of_done, hhi, seqThen_of_done, hlo, seqThen_of_done, hcheck, seqThen_of_done,
    hstat, seqThen_of_done, hword]
  refine ⟨fill, hfill, hlength, ?_, rfl, haccz, hmis⟩
  rw [blockBytes]
  simpa using hall

/-! The loop over the blocks. -/

/-- What a copy has read after up to `count` blocks (R195, R222): `read` lists the blocks, each with the bytes discarded before
its token, and `code` says how the loop ended. -/
structure BlocksRead (count : Nat) (code : HostCode) (read : List (List Byte × Block)) (t : State) : Prop where
  whole : ∀ x ∈ read, startToken ∉ x.1 ∧ x.2.data.length = 512
  length : read.length ≤ count
  verified : ∀ x ∈ read.dropLast, verify x.2.data x.2.hi x.2.lo = true
  ending : (code = .ok ∧ read.length = count ∧ ∀ x ∈ read, verify x.2.data x.2.hi x.2.lo = true)
    ∨ (code = .crcMismatch ∧ t.c16Mismatch = some true
      ∧ ∃ x, read.getLast? = some x ∧ verify x.2.data x.2.hi x.2.lo = false ∧ t.c16Acc = some (crc16seq x.2.data))

/-- A block that verifies, before the blocks read after it. -/
theorem blocksRead_cons {count : Nat} {code : HostCode} {x : List Byte × Block} {read : List (List Byte × Block)} {t : State}
    (hx : startToken ∉ x.1 ∧ x.2.data.length = 512) (hv : verify x.2.data x.2.hi x.2.lo = true)
    (h : BlocksRead count code read t) : BlocksRead (count + 1) code (x :: read) t where
  whole := List.forall_mem_cons.2 ⟨hx, h.whole⟩
  length := Nat.succ_le_succ h.length
  verified := by
    cases read with
    | nil => nofun
    | cons y read => exact List.forall_mem_cons.2 ⟨hv, h.verified⟩
  ending := by
    rcases h.ending with ⟨hok, hlength, hall⟩ | ⟨hcode, hmis, y, hlast, hy⟩
    · exact .inl ⟨hok, congrArg (· + 1) hlength, List.forall_mem_cons.2 ⟨hv, hall⟩⟩
    · exact .inr ⟨hcode, hmis, y, by rw [List.getLast?_cons, hlast]; rfl, hy⟩

/-- A block that does not verify ends the loop (R222). -/
theorem blocksRead_mismatch {count : Nat} {x : List Byte × Block} {t : State}
    (hx : startToken ∉ x.1 ∧ x.2.data.length = 512) (hv : verify x.2.data x.2.hi x.2.lo = false)
    (hacc : t.c16Acc = some (crc16seq x.2.data)) (hmis : t.c16Mismatch = some true) :
    BlocksRead (count + 1) .crcMismatch [x] t where
  whole := List.forall_mem_singleton.2 hx
  length := Nat.succ_le_succ (Nat.zero_le count)
  verified := nofun
  ending := .inr ⟨rfl, hmis, x, rfl, hv, hacc⟩

theorem blocksRead_of_sameC16 {count : Nat} {code : HostCode} {read : List (List Byte × Block)} {t u : State}
    (hsame : SameC16 t u) (h : BlocksRead count code read t) : BlocksRead count code read u where
  whole := h.whole
  length := h.length
  verified := h.verified
  ending := by
    obtain ⟨hacc, hmis⟩ := hsame
    rw [hacc, hmis]
    exact h.ending

/-- The blocks as received (R98, R196). -/
def bytesOf (read : List (List Byte × Block)) : List Byte := read.flatMap fun x => blockBytes x.1 x.2

theorem readBlocks_endsIn (rounds count : Nat) (s : State) (h : Quiescent s) (hm : s.mode = .hold) :
    EndsIn (fun x t => ∃ read : List (List Byte × Block), x.2 = read.map (·.2) ∧ Received s t (bytesOf read)
      ∧ BlocksRead count x.1 read t) (readBlocks rounds count s) := by
  induction count generalizing s with
  | zero => exact ⟨[], rfl, received_refl h hm, nofun, le_rfl, nofun, .inl ⟨rfl, rfl, nofun⟩⟩
  | succ count ih =>
    refine endsIn_then (readBlock_endsIn rounds s h hm) fun x t ht => ?_
    obtain ⟨fill, hfill, hlength, hrec, hflag, hacc, hmis⟩ := ht
    cases hv : verify x.1.data x.1.hi x.1.lo with
    | false =>
      have hx : x.2 = true := by rw [hflag, hv]; rfl
      rw [if_pos hx]
      refine ⟨[(fill, x.1)], rfl, ?_, blocksRead_mismatch ⟨hfill, hlength⟩ hv hacc (hx ▸ hmis)⟩
      simpa [bytesOf] using hrec
    | true =>
      have hx : ¬ x.2 = true := by rw [hflag, hv]; decide
      rw [if_neg hx]
      refine endsIn_then (ih t (hostRun_quiescent hrec) (hostRun_mode hrec)) fun y u hu => ?_
      obtain ⟨read, hblocks, hrec', hread⟩ := hu
      refine ⟨(fill, x.1) :: read, congrArg (x.1 :: ·) hblocks, received_trans hrec hrec',
        blocksRead_cons ⟨hfill, hlength⟩ hv hread⟩

/-! The whole copy. -/

/-- The frame of CMD18 with the CRC7 field that the copy takes from the C7 unit is that of R118. -/
theorem cmdBytes_cmd18 (lba : BitVec 32) :
    cmdBytes 0x52 lba (crcbyte (crc7seq (frameBody 18 lba))) = frame 18 lba := rfl

/-- What a copy that ends has done (R195): CMD18 and its failure, or CMD18, the blocks and CMD12. -/
def Copied (dst : Nat) (lba : BitVec 32) (count : Nat) (s : State) (x : HostCode × List Host.Cell) (t : State) : Prop :=
  ∃ lead polls r last, lead.length = 7 ∧ PollsOf polls r
    ∧ ((r ≠ 0x00 ∧ x = (.cmd18Failure, [])
        ∧ HostRun s t .auto (sdCmdEvents (frame 18 lba) lead polls ++ cmdEndEvents last))
      ∨ (r = 0x00 ∧ ∃ (read : List (List Byte × Block)) (lead' polls' : List Byte) (r' : Byte),
        lead'.length = 7 ∧ PollsOf polls' r' ∧ BlocksRead count x.1 read t ∧ x.2 = storesOf dst (read.map (·.2))
        ∧ HostRun s t .auto (sdCmdEvents (frame 18 lba) lead polls ++ receivedEvents (bytesOf read)
          ++ sdCmdEvents [0x4C, 0x00, 0x00, 0x00, 0x00, 0x61] lead' polls' ++ cmdEndEvents last)))

theorem copy_endsIn (rounds dst : Nat) (lba : BitVec 32) (count : Nat) (s : State) (h : Quiescent s) :
    EndsIn (Copied dst lba count s) (copy rounds dst lba count s) := by
  obtain ⟨t, hcrc, hhost⟩ := seqFrameCrc_run 18 lba s h
  obtain ⟨u, r, lead, polls, hlead, hpolls, ⟨hr, hcmd, hheld⟩ | ⟨hr, hcmd, last, hended⟩⟩ :=
    seqCommand_cmd18 lba (crc7seq (frameBody 18 lba)) t (hostRun_quiescent hhost)
  all_goals rw [copy, hcrc, seqThen_of_done, crcbyte_field, hcmd, seqThen_of_done]
  · refine endsIn_then (readBlocks_endsIn rounds count u (hostRun_quiescent hheld) (hostRun_mode hheld)) fun x v hv => ?_
    obtain ⟨read, hblocks, hrec, hread⟩ := hv
    obtain ⟨w, r', e, hdone⟩ := exists_commandDone (i := .cmd12) (by decide) (hostRun_quiescent hrec)
    rw [seqCommand_of_commandDone hdone, seqThen_of_done, hblocks]
    obtain ⟨-, hunit, -⟩ := hdone
    obtain ⟨lead', polls', last, hlead', hpolls', hend⟩ := hostRun_of_unitDone hunit
    have hall := hostRun_trans hhost (hostRun_trans hheld (hostRun_trans hrec hend))
    refine ⟨lead, polls, r, last, hlead, hpolls, .inr ⟨hr, read, lead', polls', r', hlead', hpolls',
      blocksRead_of_sameC16 (sameC16_of_unitDone hunit) hread, rfl, ?_⟩⟩
    have hnone : exchanges .asserted (List.replicate (trailingBytes .cmd12) idle) e = [] := rfl
    rw [hnone, List.append_nil] at hall
    simp only [List.append_assoc, List.nil_append] at hall ⊢
    exact hall
  · exact ⟨lead, polls, r, last, hlead, hpolls, .inl ⟨hr, rfl, hostRun_trans (a := []) hhost hended⟩⟩

/-- Settles O60: the stores and the bytes received are those of the blocks that `readBlocks_endsIn` lists. -/
theorem copyStoresWholeBlocksAndStopsAtTheFirstMismatch : Obligations.CopyStoresWholeBlocksAndStopsAtTheFirstMismatch := by
  intro s t rounds dst count lba code stores h hdone
  obtain ⟨lead, polls, r, last, hlead, hpolls, hend⟩ := of_endsIn (copy_endsIn rounds dst lba count s h) hdone
  rcases hend with ⟨hr, hx, hrun⟩ | ⟨hr, read, lead', polls', r', hlead', hpolls', hread, hx, hrun⟩
  · cases hx
    refine ⟨lead, polls, r, last, hlead, hpolls, .inl ⟨hr, rfl, rfl, ?_⟩⟩
    rw [hostRun_wire hrun, List.append_assoc]
  · refine ⟨lead, polls, r, last, hlead, hpolls, .inr ⟨hr, read, lead', polls', r', hlead', hpolls', ?_, hread.whole, ?_,
      hread.length, hread.verified, hread.ending⟩⟩
    · rw [hostRun_wire hrun]
      simp only [List.append_assoc]
      rfl
    · rw [show stores = storesOf dst (read.map (·.2)) from hx, storesOf, List.flatMap_map]

end Sys2Proof.Proofs
end

section
/-!
PROOFS. The card bring-up (spec/43_host_sequences.md R187, R191; spec/60_exceptions.md R224): its commands in their order, up to
the first whose check fails; then the clean end of every host sequence (spec/70_reset_and_hazards.md R260, R262, R263).
-/
namespace Sys2Proof.Proofs

open Sys2Proof.Machine Sys2Proof.Laws

/-! Commands one after the other. -/

/-- The bring-up goes on after this command: its check passed, or it has none (CMD55), or ACMD41 asks for a further round. -/
def GoesOn (p : Instr × CmdResult) : Prop :=
  p.2.verdict = some .ok ∨ p.1 = .cmd55 ∨ (p.1 = .acmd41 ∧ p.2.r1 = 0x01)

/-- After ACMD41 comes a further round exactly where it answered 01 (R191). -/
def LoopsOn01 (p q : Instr × CmdResult) : Prop := p.1 = .acmd41 → (q.1 = .cmd55 ↔ p.2.r1 = 0x01)

/-- The commands of `order` happened from `s` to `t` up to the first whose check failed, and `code` says whether one did. -/
def EndsAtFirstFailure (order : List Instr) (s : State) (code : HostCode) (t : State) : Prop :=
  ∃ units, UnitsDone units s t ∧ units.map (·.1) <+: order ∧ (∀ p ∈ units.dropLast, GoesOn p)
    ∧ (∀ (k : Nat) p q, units[k]? = some p → units[k + 1]? = some q → LoopsOn01 p q)
    ∧ ∃ p, units.getLast? = some p ∧ ((code = .ok ∧ units.map (·.1) = order ∧ p.2.verdict = some .ok)
      ∨ (code = .checkFailed ∧ p.2.verdict = some .checkFailed))

section Order

variable {i : Instr} {c : CmdResult} {order : List Instr} {s t u : State} {code : HostCode}

theorem unitsDone_singleton (h : CommandDone i c s t) : UnitsDone [(i, c)] s t := by
  obtain ⟨haccess, hunit, hcmd⟩ := h
  exact ⟨t, haccess, hunit, hcmd, rfl⟩

/-- A command whose check fails is the last. -/
theorem endsAtFirstFailure_failed (h : CommandDone i c s t) (hc : c.verdict = some .checkFailed) :
    EndsAtFirstFailure (i :: order) s .checkFailed t :=
  ⟨[(i, c)], unitsDone_singleton h, List.prefix_append [i] order, nofun, by simp,
    (i, c), rfl, .inr ⟨rfl, hc⟩⟩

/-- The last command, and its check passed. -/
theorem endsAtFirstFailure_passed (h : CommandDone i c s t) (hc : c.verdict = some .ok) :
    EndsAtFirstFailure [i] s .ok t :=
  ⟨[(i, c)], unitsDone_singleton h, List.prefix_rfl, nofun, by simp, (i, c), rfl, .inl ⟨rfl, rfl, hc⟩⟩

/-- A command after which the bring-up goes on, and the commands after it. -/
theorem endsAtFirstFailure_cons {j : Instr} (h : CommandDone i c s t) (hc : GoesOn (i, c))
    (hj : ∀ c', LoopsOn01 (i, c) (j, c')) (hrest : EndsAtFirstFailure (j :: order) t code u) :
    EndsAtFirstFailure (i :: j :: order) s code u := by
  obtain ⟨units, hunits, hprefix, hgoes, hloops, p, hlast, hend⟩ := hrest
  obtain ⟨haccess, hunit, hcmd⟩ := h
  match units with
  | [] => cases hlast
  | (j', c') :: rest =>
  obtain ⟨rfl, -⟩ := List.cons_prefix_cons.1 hprefix
  refine ⟨(i, c) :: (j', c') :: rest, ⟨t, haccess, hunit, hcmd, hunits⟩, List.cons_prefix_cons.2 ⟨rfl, hprefix⟩,
    List.forall_mem_cons.2 ⟨hc, hgoes⟩, ?_, p, hlast, ?_⟩
  · intro k p q hp hq
    cases k with
    | zero =>
      cases hp
      cases hq
      exact hj c'
    | succ k => exact hloops k p q hp hq
  · exact hend.imp_left fun ⟨hcode, horder, hp⟩ => ⟨hcode, congrArg (i :: ·) horder, hp⟩

end Order

/-! The checked commands outside the loop. -/

/-- The commands whose check alone decides whether the bring-up goes on (R189, R190, R192, R193). -/
def decidingFrames : List Instr := [.cmd0, .cmd8, .cmd58, .cmd16]

theorem checked_cases (pass : Bool) : checked pass = some .ok ∨ checked pass = some .checkFailed := by
  cases pass
  · exact .inr rfl
  · exact .inl rfl

theorem unitVerdict_cases (r : Byte) (e : List Byte) : ∀ i ∈ decidingFrames,
    unitVerdict i r e = some .ok ∨ unitVerdict i r e = some .checkFailed := by
  simp only [decidingFrames, List.forall_mem_cons]
  exact ⟨checked_cases _, checked_cases _, checked_cases _, checked_cases _, nofun⟩

theorem mem_releasingFrames_of_deciding : ∀ i ∈ decidingFrames, i ∈ releasingFrames := by decide

/-- A deciding command from a quiescent unit: it is done, and its check passed or failed. -/
theorem checkedCommand_cases {i : Instr} {s : State} (hi : i ∈ decidingFrames) (h : Quiescent s) :
    ∃ t c, CommandDone i c s t
      ∧ ((c.verdict = some .ok ∧ checkedCommand i s = .done .ok t)
        ∨ (c.verdict = some .checkFailed ∧ checkedCommand i s = .done .checkFailed t)) := by
  obtain ⟨t, r, e, hdone⟩ := exists_commandDone (mem_releasingFrames_of_deciding i hi) h
  refine ⟨t, _, hdone, (unitVerdict_cases r e i hi).imp (fun hv => ⟨hv, ?_⟩) (fun hv => ⟨hv, ?_⟩)⟩
  all_goals
    rw [checkedCommand, seqCommand_of_commandDone hdone, seqThen_of_done, hv]
    rfl

/-- A deciding command as a step of the bring-up: passed it goes on, failed it ends there (R187). -/
theorem bringUpStep_endsIn {i : Instr} {s : State} {f : State → Ran HostCode} {Q : HostCode → State → Prop}
    (hi : i ∈ decidingFrames) (h : Quiescent s)
    (hpassed : ∀ c t, CommandDone i c s t → c.verdict = some .ok → EndsIn Q (f t))
    (hfailed : ∀ c t, CommandDone i c s t → c.verdict = some .checkFailed → Q .checkFailed t) :
    EndsIn Q (bringUpStep (checkedCommand i s) f) := by
  obtain ⟨t, c, hdone, ⟨hv, hrun⟩ | ⟨hv, hrun⟩⟩ := checkedCommand_cases hi h <;> rw [bringUpStep, hrun]
  · exact hpassed c t hdone hv
  · exact hfailed c t hdone hv

/-- A deciding command that passed, before other commands. -/
theorem endsAtFirstFailure_cons_deciding {i j : Instr} {order : List Instr} {c : CmdResult} {s t u : State} {code : HostCode}
    (hi : i ∈ decidingFrames) (h : CommandDone i c s t) (hv : c.verdict = some .ok)
    (hrest : EndsAtFirstFailure (j :: order) t code u) : EndsAtFirstFailure (i :: j :: order) s code u := by
  have hne : i ≠ .acmd41 := by
    rintro rfl
    revert hi
    decide
  exact endsAtFirstFailure_cons h (.inl hv) (fun _ heq => absurd heq hne) hrest

/-- The last command of the bring-up. -/
theorem checkedCommand_endsIn {i : Instr} {s : State} (hi : i ∈ decidingFrames) (h : Quiescent s) :
    EndsIn (EndsAtFirstFailure [i] s) (checkedCommand i s) := by
  obtain ⟨t, c, hdone, ⟨hv, hrun⟩ | ⟨hv, hrun⟩⟩ := checkedCommand_cases hi h <;> rw [hrun]
  · exact endsAtFirstFailure_passed hdone hv
  · exact endsAtFirstFailure_failed hdone hv

/-! The loop of CMD55 and ACMD41 (R191). -/

theorem acmd41Verdict_cases (r : Byte) :
    (r = 0x01 ∧ acmd41Verdict r = none) ∨ (r ≠ 0x01 ∧ acmd41Verdict r = some .ok)
      ∨ acmd41Verdict r = some .checkFailed := by
  rw [acmd41Verdict]
  by_cases h01 : r = 0x01
  · exact .inl ⟨h01, if_pos h01⟩
  · rw [if_neg h01]
    exact .inr ((checked_cases (r == 0x00)).imp_left fun hv => ⟨h01, hv⟩)

/-- One round of the loop. -/
theorem acmd41Loop_succ {c c' : CmdResult} {s t u : State} (h : CommandDone .cmd55 c s t) (h' : CommandDone .acmd41 c' t u)
    (rounds : Nat) : acmd41Loop (rounds + 1) s =
      match c'.verdict with
      | none => acmd41Loop rounds u
      | some code => .done code u := by
  rw [acmd41Loop, seqCommand_of_commandDone h, seqThen_of_done, seqCommand_of_commandDone h']
  cases c'.verdict <;> rfl

/-- `n` rounds, and then the commands `rest`. -/
def roundsThen (n : Nat) (rest : List Instr) : List Instr := (List.replicate n [Instr.cmd55, .acmd41]).flatten ++ rest

/-- A round after which the commands `j :: order` follow: a further round exactly where ACMD41 answered 01. -/
theorem endsAtFirstFailure_round {c c' : CmdResult} {j : Instr} {order : List Instr} {s t u v : State} {code : HostCode}
    (h : CommandDone .cmd55 c s t) (h' : CommandDone .acmd41 c' t u) (hgoes : GoesOn (.acmd41, c'))
    (hj : j = .cmd55 ↔ c'.r1 = 0x01) (hrest : EndsAtFirstFailure (j :: order) u code v) :
    EndsAtFirstFailure (.cmd55 :: .acmd41 :: j :: order) s code v :=
  endsAtFirstFailure_cons h (.inr (.inl rfl)) (fun _ heq => nomatch heq)
    (endsAtFirstFailure_cons h' hgoes (fun _ _ => hj) hrest)

/-- The loop as a step of the bring-up, before commands `j :: rest` that begin with none of its own. -/
theorem acmd41Loop_endsIn {f : State → Ran HostCode} {j : Instr} {rest : List Instr} (hj : j ≠ .cmd55)
    (hf : ∀ t, Quiescent t → EndsIn (EndsAtFirstFailure (j :: rest) t) (f t)) (rounds : Nat) (s : State) (h : Quiescent s) :
    EndsIn (fun code t => ∃ n, n < rounds ∧ EndsAtFirstFailure (roundsThen (n + 1) (j :: rest)) s code t)
      (bringUpStep (acmd41Loop rounds s) f) := by
  induction rounds generalizing s with
  | zero => trivial
  | succ rounds ih =>
    obtain ⟨t, r, e, h55⟩ := exists_commandDone (i := .cmd55) (by decide) h
    obtain ⟨u, r', e', h41⟩ := exists_commandDone (i := .acmd41) (by decide) (quiescent_of_commandDone h55)
    have hq := quiescent_of_commandDone h41
    have hround := acmd41Loop_succ h55 h41 rounds
    rcases acmd41Verdict_cases r' with ⟨h01, hv⟩ | ⟨h01, hv⟩ | hv
    · rw [hround, unitVerdict, hv]
      refine endsIn_mono (ih u hq) fun code v hrest => ?_
      obtain ⟨n, hn, hrest⟩ := hrest
      exact ⟨n + 1, Nat.succ_lt_succ hn,
        endsAtFirstFailure_round h55 h41 (.inr (.inr ⟨rfl, h01⟩)) (iff_of_true rfl h01) hrest⟩
    · rw [hround, unitVerdict, hv]
      exact endsIn_mono (hf u hq) fun code v hrest =>
        ⟨0, Nat.succ_pos _, endsAtFirstFailure_round h55 h41 (.inl hv) (iff_of_false hj h01) hrest⟩
    · rw [hround, unitVerdict, hv]
      exact ⟨0, Nat.succ_pos _, endsAtFirstFailure_cons h55 (.inr (.inl rfl)) (fun _ heq => nomatch heq)
        (endsAtFirstFailure_failed h41 hv)⟩

/-! The whole bring-up. -/

/-- The commands after the loop (R192, R193). -/
theorem finalCommands_endsIn (s : State) (h : Quiescent s) :
    EndsIn (EndsAtFirstFailure [.cmd58, .cmd16] s)
      (bringUpStep (checkedCommand .cmd58 s) fun t => checkedCommand .cmd16 t) :=
  bringUpStep_endsIn (by decide) h
    (fun _ _ h58 hv => endsIn_mono (checkedCommand_endsIn (by decide) (quiescent_of_commandDone h58))
      fun _ _ => endsAtFirstFailure_cons_deciding (by decide) h58 hv)
    fun _ _ h58 hv => endsAtFirstFailure_failed h58 hv

/-- From power-on the bring-up ends at the first failure, or waits in its loop; it ends well only after a round. -/
theorem bringUp_endsIn {rounds : Nat} {d : BitVec 12} {more : Nat} {s u : State} (hpower : powerOn d more s = .done () u)
    (h : Quiescent u) :
    EndsIn (fun code t => ∃ n, n ≤ rounds ∧ (code = .ok → 0 < n) ∧ EndsAtFirstFailure (bringUpOrder n) u code t)
      (bringUp rounds d more s) := by
  rw [bringUp, hpower, seqThen_of_done]
  refine bringUpStep_endsIn (by decide) h (fun c t h0 hv0 => ?_)
    fun c t h0 hv0 => ⟨0, Nat.zero_le _, nofun, endsAtFirstFailure_failed h0 hv0⟩
  refine bringUpStep_endsIn (by decide) (quiescent_of_commandDone h0) (fun c' t' h8 hv8 => ?_)
    fun c' t' h8 hv8 => ⟨0, Nat.zero_le _, nofun,
      endsAtFirstFailure_cons_deciding (by decide) h0 hv0 (endsAtFirstFailure_failed h8 hv8)⟩
  refine endsIn_mono (acmd41Loop_endsIn (j := .cmd58) nofun finalCommands_endsIn rounds t' (quiescent_of_commandDone h8))
    fun code v hv => ?_
  obtain ⟨n, hn, hrest⟩ := hv
  exact ⟨n + 1, hn, fun _ => Nat.succ_pos n, endsAtFirstFailure_cons_deciding (by decide) h0 hv0
    (endsAtFirstFailure_cons_deciding (by decide) h8 hv8 hrest)⟩

/-! The clean end of the host sequences. -/

/-- Commands leave the unit as a sequence that ends cleanly does. -/
theorem hostRun_of_unitsDone (units : List (Instr × CmdResult)) (s t : State) (h : Quiescent s) (hm : s.mode = .auto)
    (hunits : UnitsDone units s t) : ∃ ev, HostRun s t .auto ev := by
  induction units generalizing s with
  | nil =>
    cases hunits
    exact ⟨[], hm ▸ hostRun_refl h⟩
  | cons p units ih =>
    obtain ⟨u, -, hunit, -, hrest⟩ := hunits
    obtain ⟨_, _, _, -, -, hrun⟩ := hostRun_of_unitDone hunit
    obtain ⟨ev, hrun'⟩ := ih u (hostRun_quiescent hrun) (hostRun_mode hrun) hrest
    exact ⟨_, hostRun_trans hrun hrun'⟩

theorem powerOn_hostRun (d : BitVec 12) (more : Nat) (s : State) (h : Quiescent s) :
    ∃ t ev, powerOn d more s = .done () t ∧ HostRun s t .auto ev := by
  obtain ⟨t, rs, hrun, -, hwire, hm, hq⟩ := powerOn_run d more s h
  exact ⟨t, _, hrun, hostRun_of_wireRun (s := s.setDiv d) hwire hq hm⟩

theorem bringUp_endsCleanly (rounds : Nat) (d : BitVec 12) (more : Nat) (s : State) (h : Quiescent s) :
    EndsCleanly s (bringUp rounds d more s) := by
  obtain ⟨u, ev, hpower, hrun⟩ := powerOn_hostRun d more s h
  refine endsCleanly_of_endsIn (endsIn_mono (bringUp_endsIn hpower (hostRun_quiescent hrun)) fun code t ht => ?_)
  obtain ⟨n, -, -, units, hunits, -⟩ := ht
  obtain ⟨ev', hrun'⟩ := hostRun_of_unitsDone units u t (hostRun_quiescent hrun) (hostRun_mode hrun) hunits
  exact ⟨_, hostRun_trans hrun hrun'⟩

theorem copy_endsCleanly (rounds dst : Nat) (lba : BitVec 32) (count : Nat) (s : State) (h : Quiescent s) :
    EndsCleanly s (copy rounds dst lba count s) := by
  refine endsCleanly_of_endsIn (endsIn_mono (copy_endsIn rounds dst lba count s h) fun x t hx => ?_)
  obtain ⟨_, _, _, _, -, -, ⟨-, -, hrun⟩ | ⟨-, _, _, _, _, -, -, -, -, hrun⟩⟩ := hx
  · exact ⟨_, hrun⟩
  · exact ⟨_, hrun⟩

/-- Settles O58: power-on and copy by their runs, the bring-up by its commands up to the first that fails. -/
theorem hostSequencesMeetNoUnspecifiedPointAndBringUpEndsAtFirstFailure :
    Obligations.HostSequencesMeetNoUnspecifiedPointAndBringUpEndsAtFirstFailure := by
  intro s h
  refine ⟨⟨fun d more => ?_, fun rounds d more => bringUp_endsCleanly rounds d more s h,
    fun rounds dst lba count => copy_endsCleanly rounds dst lba count s h⟩, fun rounds d more code t hdone => ?_⟩
  · obtain ⟨t, ev, hpower, hrun⟩ := powerOn_hostRun d more s h
    exact endsCleanly_of_endsIn (endsIn_of_eq hpower ⟨ev, hrun⟩)
  · obtain ⟨u, ev, hpower, hrun⟩ := powerOn_hostRun d more s h
    obtain ⟨n, hn, hok, units, hunits, horder, hgoes, hloops, p, hlast, hend⟩ :=
      of_endsIn (bringUp_endsIn hpower (hostRun_quiescent hrun)) hdone
    exact ⟨u, n, units, hpower, hn, hunits, horder, hgoes, hloops, p, hlast,
      hend.imp_left fun ⟨hcode, hall, hv⟩ => ⟨hcode, hok hcode, hall, hv⟩⟩

end Sys2Proof.Proofs
end

section
/-!
PROOFS. Reset (spec/70_reset_and_hazards.md R251 to R256), and the discipline of one byte outstanding (R260), under which a turn
of the shifter does not meet U6 and a transfer's write does not meet U5.
-/
namespace Sys2Proof.Proofs

open Sys2Proof.Machine Sys2Proof.Laws

/-! What reset leaves. -/

/-- Settles O42: nothing queued, nothing sent, and an empty trace tells the mode it starts from. -/
theorem spiInvariantHoldsAtReset : Obligations.SpiInvariantHoldsAtReset := by
  have hbound : QueuesBounded State.reset := ⟨Nat.zero_le _, Nat.zero_le _⟩
  have hfifo : FifoAccounting State.reset := ⟨fun _ => rfl, rfl⟩
  have hwire : WireTellsMode State.reset := ⟨rfl, trivial⟩
  exact ⟨hbound, hfifo, hwire⟩

/-- Settles O45: the two reads are those of a queue with room and of an empty one. -/
theorem resetLeavesTheSpecsValues : Obligations.ResetLeavesTheSpecsValues := by
  have hfull : txFull State.reset = false := txFull_of_empty _ rfl
  have hread : exec .spiTxst State.reset = .next (State.reset.setRdata (txfifoWord false)) := by
    rw [← hfull]
    rfl
  exact ⟨rfl, rfl, rfl, rfl, rfl, rfl, ⟨_, hread, rfl⟩,
    _, _, congrArg Host.Outcome.next (receive_of_empty rfl), rfl, rxIsSentinel_sentinelWord _⟩

/-- Where no byte is queued a turn of the shifter uses up the turn and nothing else (R163). -/
theorem runsTo_idleShifter (n : Nat) (s : State) (h : s.txq = []) :
    RunsTo n (s.setAgenda (List.replicate n .shifter)) (s.setAgenda []) := by
  induction n with
  | zero => exact runsTo_zero _
  | succ n ih => exact runsTo_shifter (shift_of_empty h) ih

/-- Settles O46. -/
theorem resetIsIdle : Obligations.ResetIsIdle := by
  have hstep : step State.reset = .next State.reset := by
    rw [step_of_emptyAgenda rfl]
    exact shift_of_empty rfl
  exact ⟨hstep, fun n => runsTo_idleShifter n State.reset rfl⟩

/-! One byte outstanding. -/

/-- An exchange takes a byte from one queue and puts one into the other. -/
theorem exchangeByte_oneOutstanding {s : State} {t : Byte} {q : List Byte} (hq : s.txq = t :: q) (h : OneOutstanding s) :
    OneOutstanding (s.exchangeByte t) := by
  rw [OneOutstanding, hq, List.length_cons] at h
  rw [OneOutstanding, exchangeByte_txq, exchangeByte_rxq, hq, List.tail_cons, List.length_append, List.length_singleton]
  omega

/-- While a byte is queued the receive FIFO is empty, so that the exchange finds room. -/
theorem shift_oneOutstanding {s : State} (h : OneOutstanding s) : ∃ t, shift s = .next t ∧ OneOutstanding t := by
  cases hq : s.txq with
  | nil => exact ⟨s, shift_of_empty hq, h⟩
  | cons t q =>
    have hrxq : s.rxq.length = 0 := by
      rw [OneOutstanding, hq, List.length_cons] at h
      omega
    have hroom : s.rxq.length ≠ Config.fifoDepth := hrxq ▸ Nat.ne_of_lt fifoDepth_pos
    exact ⟨_, shift_of_room hq hroom, exchangeByte_oneOutstanding hq h⟩

theorem receive_oneOutstanding {s : State} (h : OneOutstanding s) : OneOutstanding s.receive := by
  rw [OneOutstanding] at h ⊢
  rw [receive_txq, receive_rxq, List.length_tail]
  omega

/-- Settles O44: one lemma for the shifter and one for the read; the write from a quiescent unit queues the only byte. -/
theorem oneOutstandingByteMeetsNoOverflow : Obligations.OneOutstandingByteMeetsNoOverflow := by
  intro s h
  refine ⟨shift_oneOutstanding h, ⟨_, rfl, receive_oneOutstanding h⟩, fun ⟨htx, hrx⟩ b => ?_⟩
  refine ⟨_, exec_spiTx_of_empty s b htx, ?_, rfl⟩
  simp [OneOutstanding, hrx]

end Sys2Proof.Proofs
end

section
/-!
PROOFS. The derived forms of the CRC loops (spec/40_crc7.md section 1, R111; spec/41_crc16.md section 1, R131): linearity, and the
loop-free form of one CRC16 fold, both from the remainder of polynomial division.
-/
namespace Sys2Proof.Proofs

open Polynomial
open Sys2Proof.Machine

/-! A word is determined by its polynomial. -/

theorem toPoly_injective {w : Nat} : Function.Injective (toPoly : BitVec w → (ZMod 2)[X]) := fun u v h =>
  BitVec.xor_eq_zero_iff.1 (eq_zero_of_toPoly_eq_zero (by rw [toPoly_xor, h, CharTwo.add_self_eq_zero]))

/-- Both the dividend and the remainder are linear. -/
theorem foldl_crcBit_byte_xor {w : Nat} (g r₁ r₂ : BitVec w) (b₁ b₂ : Byte) :
    (bitsMsbFirst (b₁ ^^^ b₂)).foldl (crcBit g) (r₁ ^^^ r₂) =
      (bitsMsbFirst b₁).foldl (crcBit g) r₁ ^^^ (bitsMsbFirst b₂).foldl (crcBit g) r₂ := by
  apply toPoly_injective
  rw [toPoly_xor, toPoly_foldl_crcBit_byte, toPoly_foldl_crcBit_byte, toPoly_foldl_crcBit_byte, ← add_modByMonic,
    toPoly_xor, toPoly_xor]
  exact congrArg (· %ₘ generator g) (by ring)

/-- Settles O10: the loop of R110 is a CRC loop, and every CRC loop is linear. -/
theorem crc7IsLinear : Obligations.Crc7IsLinear := by
  intro r₁ r₂ b₁ b₂
  simp only [crc7_eq_foldl_crcBit]
  exact foldl_crcBit_byte_xor ..

/-- A word that differs from the dividend by a multiple of the generator is what the loop leaves. -/
theorem foldl_crcBit_byte_eq_of_dvd {w : Nat} {g r v : BitVec w} {b : Byte}
    (h : generator g ∣ toPoly r * X ^ 8 + toPoly b * X ^ w - toPoly v) : (bitsMsbFirst b).foldl (crcBit g) r = v := by
  apply toPoly_injective
  rw [toPoly_foldl_crcBit_byte, modByMonic_eq_of_dvd_sub (generator_monic g) h, toPoly_modByMonic_generator]

/-! Words made of two halves. -/

theorem exists_append {m n : Nat} (v : BitVec (m + n)) : ∃ (hi : BitVec m) (lo : BitVec n), v = hi ++ lo := by
  refine ⟨v.extractLsb' n m, v.extractLsb' 0 n, ?_⟩
  rw [BitVec.extractLsb'_append_extractLsb'_eq_extractLsb' (Nat.zero_add n).symm, BitVec.extractLsb'_eq_self]

theorem setWidth_add_eq_append (m : Nat) {n : Nat} (v : BitVec n) : v.setWidth (m + n) = 0#m ++ v := by
  ext i hi
  simp only [BitVec.getElem_setWidth, BitVec.getElem_append, BitVec.getElem_zero]
  split
  · exact BitVec.getLsbD_eq_getElem _
  · exact BitVec.getLsbD_of_ge v i (by omega)

theorem append_xor_setWidth {m n : Nat} (x : BitVec m) (y z : BitVec n) :
    (x ++ y) ^^^ z.setWidth (m + n) = x ++ (y ^^^ z) := by
  rw [setWidth_add_eq_append, BitVec.xor_append, BitVec.xor_zero]

theorem append_ushiftRight {m n : Nat} (x : BitVec m) (y : BitVec n) : (x ++ y) >>> n = x.setWidth (m + n) := by
  ext i hi
  simp [BitVec.getLsbD_append]

theorem toPoly_zero (w : Nat) : toPoly 0#w = 0 := by simp [toPoly]

/-- The bits above the lowest `m` leave the word. -/
theorem toPoly_shiftLeft {m k : Nat} (v : BitVec (m + k)) : toPoly (v <<< k) = toPoly (v.setWidth m) * X ^ k := by
  have hshift : v <<< k = v.setWidth m ++ 0#k := by
    ext i hi
    simp only [BitVec.getElem_shiftLeft, BitVec.getElem_append, BitVec.getElem_zero, BitVec.getElem_setWidth]
    split
    next hlow => simp [hlow]
    next hlow => simp [hlow, BitVec.getLsbD_eq_getElem (show i - k < m + k by omega)]
  rw [hshift, toPoly_append, toPoly_zero, add_zero]

/-! The steps of the shift-and-xor form (R131 (d)), on an accumulator given by its bytes and nibbles. -/

/-- The first step swaps the accumulator's bytes and reads the byte into the lower one. -/
theorem swapBytes_xor_byte (hi lo b : Byte) :
    ((hi ++ lo : BitVec 16).extractLsb' 0 8 ++ (hi ++ lo : BitVec 16).extractLsb' 8 8) ^^^ b.setWidth 16 =
      lo ++ (hi ^^^ b) := by
  rw [BitVec.extractLsb'_append_eq_left, BitVec.extractLsb'_append_eq_right]
  exact append_xor_setWidth lo hi b

/-- The second step adds the upper nibble of the lower byte to the lower nibble. -/
theorem xor_upperNibble (lo : Byte) (u l : BitVec 4) :
    (lo ++ (u ++ l : BitVec 8)) ^^^ (((lo ++ (u ++ l : BitVec 8)).setWidth 8) >>> 4).setWidth 16 =
      lo ++ (u ++ (l ^^^ u) : BitVec 8) := by
  have hnibble : (u ++ l : BitVec 8) >>> 4 = u.setWidth 8 := append_ushiftRight u l
  rw [BitVec.setWidth_append_eq_right, hnibble]
  exact (append_xor_setWidth lo (u ++ l) (u.setWidth 8)).trans (congrArg (lo ++ ·) (append_xor_setWidth u l u))

/-- The third and the fourth step add the low nibble at `x^12` and the low byte, which the third leaves, at `x^5`. -/
theorem toPoly_xor_shiftLeft_twelve_five (lo : Byte) (u l : BitVec 4) {t : BitVec 16} (ht : t = lo ++ (u ++ l : BitVec 8)) :
    toPoly ((t ^^^ (t <<< 12)) ^^^ (((t ^^^ (t <<< 12)) &&& 0x00FF#16) <<< 5)) =
      toPoly t + toPoly l * X ^ 12 + toPoly (u ++ l : BitVec 8) * X ^ 5 := by
  have hnibble : t.setWidth 4 = l := by
    rw [ht, BitVec.setWidth_append, dif_pos (by decide), BitVec.setWidth_append_eq_right]
  have hbyte : ((t ^^^ (t <<< 12)) &&& 0x00FF#16).setWidth 11 = (t.setWidth 8).setWidth (3 + 8) := by
    ext i hi
    interval_cases i <;> simp
  rw [toPoly_xor, toPoly_xor, toPoly_shiftLeft (m := 4) (k := 12), toPoly_shiftLeft (m := 11) (k := 5), hnibble, hbyte,
    setWidth_add_eq_append, toPoly_append, toPoly_zero, zero_mul, zero_add, ht, BitVec.setWidth_append_eq_right]

/-- Over GF(2), with the accumulator's bytes `hi` and `lo` and the nibbles `u` and `l` of `hi` plus the byte read: the dividend
and the form's value differ by the generator times `u·x^4 + l + u`. -/
theorem generator_dvd_sub_shiftXor (hi lo u l : (ZMod 2)[X]) :
    X ^ 16 + X ^ 12 + X ^ 5 + 1 ∣
      (hi * X ^ 8 + lo) * X ^ 8 + (hi + (u * X ^ 4 + l)) * X ^ 16 -
        (lo * X ^ 8 + (u * X ^ 4 + (l + u)) + (l + u) * X ^ 12 + (u * X ^ 4 + (l + u)) * X ^ 5) := by
  have htwo : (2 : (ZMod 2)[X]) = 0 := CharTwo.two_eq_zero
  refine ⟨u * X ^ 4 + l + u, ?_⟩
  linear_combination (hi * X ^ 16 - (u * X ^ 4 + l + u) * (X ^ 12 + X ^ 5 + 1)) * htwo

/-- Settles O11: from the same dividend, the form's value differs by a multiple of the generator. -/
theorem crc16IsTheShiftAndXorForm : Obligations.Crc16IsTheShiftAndXorForm := by
  intro a b t₁ t₂ t₃
  obtain ⟨hi, lo, rfl⟩ := exists_append (m := 8) (n := 8) a
  obtain ⟨u, l, hnibbles⟩ := exists_append (m := 4) (n := 4) (hi ^^^ b)
  have ht₁ : t₁ = lo ++ (u ++ l : BitVec 8) := hnibbles ▸ swapBytes_xor_byte hi lo b
  have ht₂ : t₂ = lo ++ (u ++ (l ^^^ u) : BitVec 8) := by
    simp only [t₂, ht₁]
    exact xor_upperNibble lo u l
  have hb : toPoly b = toPoly hi + (toPoly u * X ^ 4 + toPoly l) := by
    rw [← toPoly_append, ← hnibbles, toPoly_xor, CharTwo.add_cancel_left]
  rw [crc16_eq_foldl_crcBit]
  refine foldl_crcBit_byte_eq_of_dvd ?_
  rw [toPoly_xor_shiftLeft_twelve_five lo u (l ^^^ u) ht₂, ht₂, hb, generator_crc16]
  simp only [toPoly_append, toPoly_xor]
  exact generator_dvd_sub_shiftXor ..

end Sys2Proof.Proofs
end

section
/-!
PROOFS. Words that the spec writes out, decoded (spec/95_test_vectors.md sections 2.8 and 2.9).
-/
namespace Sys2Proof.Proofs

open Sys2Proof.Machine Sys2Proof.Laws

/-- Settles O4: two words carry data that their registers ignore (R83), each other word is the encoding of its instruction. -/
theorem specWordsDecodeToTheirInstructions : Obligations.SpecWordsDecodeToTheirInstructions :=
  have hencoded := decodeOfEncodeIsTheInstruction
  ⟨hencoded (.spiTx 0x40), decode_regWord true 0#2 0x48#8 0xFFFFFF40, decode_regWord false 0#2 0x4C#8 0xDEADBEEF,
    hencoded (.spiCs 2), hencoded (.spiDiv 3), hencoded (.c7Fold 0x40), hencoded .c7Fin, hencoded (.c16Fold 0x01),
    hencoded (.c16Chk 0x7FA1), hencoded .c16Stat, hencoded .cmd0, hencoded (.cmd18 0x12345678 0x74)⟩

end Sys2Proof.Proofs
end

section
/-!
PROOFS. `SPI.TX` on a full transmit FIFO (spec/93_implementation_defined.md U5), under every value of the parameter.
-/
namespace Sys2Proof.Proofs

open Sys2Proof.Machine Sys2Proof.Laws

theorem fullTxq_cases (p : TxFullPolicy) (q : List Byte) (b : Byte) :
    fullTxq p q b = q ∨ fullTxq p q b = q.tail ++ [b] ∨ fullTxq p q b = q.dropLast ++ [b] := by
  cases p with
  | drop => exact .inl rfl
  | overwriteOldest => exact .inr (.inl rfl)
  | overwriteNewest => exact .inr (.inr rfl)

/-- A byte that overwrites another takes its place. -/
theorem length_fullTxq (p : TxFullPolicy) {q : List Byte} (b : Byte) (hq : 0 < q.length) :
    (fullTxq p q b).length = q.length := by
  cases p with
  | drop => rfl
  | overwriteOldest => rw [fullTxq, List.length_append, List.length_tail, List.length_singleton, Nat.sub_add_cancel hq]
  | overwriteNewest => rw [fullTxq, List.length_append, List.length_dropLast, List.length_singleton, Nat.sub_add_cancel hq]

theorem enqueue_of_full {s : State} (b : Byte) (h : s.txq.length = Config.fifoDepth) :
    s.enqueue b = { s with txq := fullTxq Config.txFullPolicy s.txq b, sent := s.sent ++ [b], txLost := true } := by
  rcases enqueue_cases s b with ⟨hroom, -⟩ | ⟨-, e⟩
  · rw [(txFull_iff s).2 h] at hroom
    cases hroom
  · exact e

/-- Settles O31: the queue is the one that the parameter says; a full queue has a byte to overwrite. -/
theorem spiTxOnAFullQueueDropsOrOverwrites : Obligations.SpiTxOnAFullQueueDropsOrOverwrites := fun s b h =>
  ⟨fullTxq Config.txFullPolicy s.txq b, length_fullTxq _ b (h ▸ fifoDepth_pos), fullTxq_cases ..,
    congrArg Host.Outcome.next (enqueue_of_full b h)⟩

end Sys2Proof.Proofs
end
